-- ==== Sys2Proof/Word.lean ====
section
/-! DEFINITION. The word types of the block (00_scope.md R9): every integer is unsigned, and bit 0 is
the least significant bit of every value and port. -/

namespace Sys2Proof

/-- `u32` of the spec: RANDU and Xorshift32 states, raw draws (R9). -/
abbrev U32 := BitVec 32

/-- `u64` of the spec: seeds and the four LCG fields (R9). -/
abbrev U64 := BitVec 64

/-- `f64` of the spec, as its IEEE 754 binary64 bit pattern: bit 63 the sign, bits 62:52 the biased
exponent, bits 51:0 the fraction (R58, R97). -/
abbrev F64 := BitVec 64

end Sys2Proof
end

