-- ==== Sys2Proof/Syntax.lean ====
section
/-! DEFINITION. The commands of the block (30_encoding.md), as the host presents them on the ports, as
instructions, and as lines of the spec's assembler. -/

namespace Sys2Proof

/-- One command as it stands on the ports: the pair `(CMD, SEED)` presented together (R50). -/
structure Command where
  cmd  : BitVec 4
  seed : U64
deriving DecidableEq, Repr

/-- The operations that the `OP` field names (R52). -/
inductive Operation where
  | construct
  | advanceU32
  | advanceF64
  | reserved
deriving DecidableEq, Repr

/-- The variants that the `VAR` field names (R53), under the names the Driver uses. -/
inductive Variant where
  | lcg
  | randu
  | xorshift32
  | mt19937
deriving DecidableEq, Repr

/-- The instructions: one constructor per row of the opcode table. A CONSTRUCT carries the seed it
samples from `SEED`; the draws carry nothing, since they ignore that port (R55). -/
inductive Instr where
  | constructLcg (seed : U64)
  | constructRandu (seed : U64)
  | constructXs32 (seed : U64)
  | constructMt (seed : U64)
  | advanceU32
  | advanceF64
deriving DecidableEq, Repr

/-- The seed an instruction carries, for the CONSTRUCT commands (R55). -/
def Instr.seed? : Instr → Option U64
  | .constructLcg x => some x
  | .constructRandu x => some x
  | .constructXs32 x => some x
  | .constructMt x => some x
  | .advanceU32 => none
  | .advanceF64 => none

/-- A line of the assembler (R60) or its one pseudo-instruction `run` (R61). A seed is written as any
non-negative integer; `AsmLine.wellFormed` says which of them are commands. -/
inductive AsmLine where
  | construct (v : Variant) (seed : Nat)
  | advanceU32
  | advanceF64
  | run (v : Variant) (seed n : Nat)
deriving DecidableEq, Repr

end Sys2Proof
end

