-- ==== Sys2Proof/WellFormed.lean ====
section
/-! DEFINITION. Which command words and assembler lines are commands at all. Every term of `Instr` is
well formed by its type (its only field is a 64-bit seed); the checks are on the words of the `CMD`
port (30_encoding.md R56) and on assembler lines (R60). -/

namespace Sys2Proof

/-- The check of the `OP` field, `CMD[3:2]`: `11` is reserved with any `VAR` (R56). -/
def Command.opDefined (c : Command) : Bool := c.cmd &&& 0b1100#4 != 0b1100#4

/-- The check of the `VAR` field, `CMD[1:0]`: it must be `00` outside CONSTRUCT (R51, R56). -/
def Command.varDefined (c : Command) : Bool := c.cmd &&& 0b1100#4 == 0 || c.cmd &&& 0b0011#4 == 0

/-- The command word spells one of the six commands (R56). -/
def Command.wellFormed (c : Command) : Bool := c.opDefined && c.varDefined

/-- The line is a command: a seed of `2^64` or more is rejected by whoever writes it (R60). -/
def AsmLine.wellFormed : AsmLine → Bool
  | .construct _ seed => decide (seed < 2 ^ 64)
  | .advanceU32 => true
  | .advanceF64 => true
  | .run _ seed _ => decide (seed < 2 ^ 64)

end Sys2Proof
end

