-- ==== Sys2Proof/Decode.lean ====
section
/-! DEFINITION. The decoder and the encoder of the `CMD` port (30_encoding.md R51 to R63), the table
words the host numbers, and the expansion of assembler lines (R60, R61). -/

namespace Sys2Proof

/-- What the decoder answers (R63): one of the six commands, or the rejection by name. -/
inductive Decoded where
  /-- The word spells this command. -/
  | command (i : Instr)
  /-- The word is one of the ten reserved codes (R56). -/
  | reserved
deriving DecidableEq, Repr

/-- `OP = CMD[3:2]` (R51). -/
def opField (c : Command) : BitVec 2 := c.cmd.extractLsb' 2 2

/-- `VAR = CMD[1:0]` (R51). -/
def varField (c : Command) : BitVec 2 := c.cmd.extractLsb' 0 2

/-- `OP` values (R52). -/
def operationOf (op : BitVec 2) : Operation :=
  if op = 0b00#2 then .construct
  else if op = 0b01#2 then .advanceU32
  else if op = 0b10#2 then .advanceF64
  else .reserved

/-- `VAR` values (R53). -/
def variantOf (var : BitVec 2) : Variant :=
  if var = 0b00#2 then .lcg
  else if var = 0b01#2 then .randu
  else if var = 0b10#2 then .xorshift32
  else .mt19937

/-- The opcode map (R54), row by row: every one of the 16 values of `CMD` has its line. The state is
not looked at, and `SEED` only travels along (R63). -/
def decode (c : Command) : Decoded :=
  match operationOf (opField c), variantOf (varField c) with
  | .construct, .lcg => .command (.constructLcg c.seed)
  | .construct, .randu => .command (.constructRandu c.seed)
  | .construct, .xorshift32 => .command (.constructXs32 c.seed)
  | .construct, .mt19937 => .command (.constructMt c.seed)
  | .advanceU32, .lcg => .command .advanceU32
  | .advanceU32, .randu => .reserved
  | .advanceU32, .xorshift32 => .reserved
  | .advanceU32, .mt19937 => .reserved
  | .advanceF64, .lcg => .command .advanceF64
  | .advanceF64, .randu => .reserved
  | .advanceF64, .xorshift32 => .reserved
  | .advanceF64, .mt19937 => .reserved
  | .reserved, .lcg => .reserved
  | .reserved, .randu => .reserved
  | .reserved, .xorshift32 => .reserved
  | .reserved, .mt19937 => .reserved

/-- The code of a variant in the `VAR` field (R53). -/
def variantCode : Variant → BitVec 2
  | .lcg => 0b00#2
  | .randu => 0b01#2
  | .xorshift32 => 0b10#2
  | .mt19937 => 0b11#2

/-- `CMD = {OP, VAR}` (R51). -/
def cmdWord (op var : BitVec 2) : BitVec 4 := op ++ var

/-- The command that spells an instruction (R54); the draws have `SEED = 0` by the convention of R60. -/
def encode : Instr → Command
  | .constructLcg x => { cmd := cmdWord 0b00#2 (variantCode .lcg), seed := x }
  | .constructRandu x => { cmd := cmdWord 0b00#2 (variantCode .randu), seed := x }
  | .constructXs32 x => { cmd := cmdWord 0b00#2 (variantCode .xorshift32), seed := x }
  | .constructMt x => { cmd := cmdWord 0b00#2 (variantCode .mt19937), seed := x }
  | .advanceU32 => { cmd := cmdWord 0b01#2 0b00#2, seed := 0 }
  | .advanceF64 => { cmd := cmdWord 0b10#2 0b00#2, seed := 0 }

/-- The command whose bits are `w` in the opcode table's numbering: `CMD` in bits 3:0 and, counting on
from it, `SEED` in bits 67:4; bits from `nbits` up are 0 (DESIGN CHOICE, log entry 11). -/
def commandOfTable (nbits w : Nat) : Command :=
  { cmd := BitVec.ofNat 4 (w % 2 ^ nbits), seed := BitVec.ofNat 64 (w % 2 ^ nbits / 2 ^ 4) }

/-- The instruction the decoder reads from a table word, none where it refuses. -/
def decodeTableWord (nbits w : Nat) : Option Instr :=
  match decode (commandOfTable nbits w) with
  | .command i => some i
  | .reserved => none

/-- The generator names of the Driver and the assembler: case-sensitive exact match (R53, R60). -/
def variantNamed (name : String) : Option Variant :=
  if name = "lcg" then some .lcg
  else if name = "randu" then some .randu
  else if name = "xorshift32" then some .xorshift32
  else if name = "mt19937" then some .mt19937
  else none

/-- `construct <variant>, <seed>` (R60). -/
def constructCommand (v : Variant) (seed : Nat) : Command :=
  { cmd := cmdWord 0b00#2 (variantCode v), seed := BitVec.ofNat 64 seed }

/-- The commands a well-formed assembler line stands for (R60, R61). -/
def expand : AsmLine → List Command
  | .construct v seed => [constructCommand v seed]
  | .advanceU32 => [encode .advanceU32]
  | .advanceF64 => [encode .advanceF64]
  | .run v seed n => constructCommand v seed :: List.replicate n (encode .advanceF64)

end Sys2Proof
end

