-- ==== Sys2Proof/Config.lean ====
section
/-! DEFINITION. What an instance of the block fixes (the LCG triple, 00_scope.md R8), and the one free
value of the model. -/

namespace Sys2Proof

/-- The configuration triple `(CFG_A, CFG_C, CFG_M)` of one instance (R8). `CFG_M = 0` can be written
down so that it can be refused (`BAD_CONFIG`, R123); the default triple is
`Sys2Proof.Machine.defaultConfig`. -/
structure LcgConfig where
  a : U64
  c : U64
  m : U64
deriving DecidableEq, Repr

/-- FREE VALUE (log entry 10): what `fdiv64` gives for operands outside `finite x >= 0`,
`finite y > 0`, the only ones R100 speaks of. No command divides such operands. -/
opaque Config.fdivOutside : F64 → F64 → F64

end Sys2Proof
end

