-- ==== Sys2Proof/Machine/Constants.lean ====
section
/-! DEFINITION. The wired constants of the block (00_scope.md R7, R8; 42_advance_f64.md R102, R103).
They are not state (10_state.md R35). -/

namespace Sys2Proof.Machine

/-- The default triple `(1664525, 1013904223, 2^32)`, the one this hardware takes (R8). -/
def defaultConfig : LcgConfig := { a := 1664525#64, c := 1013904223#64, m := 4294967296#64 }

/-- `RANDU_MULT` (R7). -/
def randuMult : Nat := 65539

/-- `RANDU_MOD` (R7). -/
def randuMod : Nat := 2 ^ 31

/-- `XS_SHIFT_A`, left (R7). -/
def xsShiftA : Nat := 13

/-- `XS_SHIFT_B`, right, logical (R7). -/
def xsShiftB : Nat := 17

/-- `XS_SHIFT_C`, left (R7). -/
def xsShiftC : Nat := 5

/-- `XS_FALLBACK` (R7). -/
def xsFallback : U32 := 1

/-- `XS_DIV` (R7), as an integer; the divisor the unit uses is its `f64`, `xsDivisor`. -/
def xsDiv : U32 := 0xFFFFFFFF#32

/-- The RANDU divisor `2147483648.0`, a wired constant (R102). -/
def randuDivisor : F64 := 0x41E0000000000000#64

/-- The Xorshift32 divisor `4294967295.0 = 2^32 - 1`, a wired constant (R103, R108). -/
def xsDivisor : F64 := 0x41EFFFFFFFE00000#64

end Sys2Proof.Machine
end

