-- ==== Sys2Proof/Machine/Norm.lean ====
section
/-! DEFINITION. The normalization unit NORM and the binary64 primitives it uses (42_advance_f64.md R96
to R100), over bit patterns, computed exactly in the natural numbers. The format and the rounding to
nearest, ties to even, are decision D13 of the spec (PRESUMED, log entry 9). -/

namespace Sys2Proof.Machine

/-- Bit 63. -/
def f64Sign (b : F64) : Bool := b.msb

/-- Bits 62:52, the exponent field (bias 1023). -/
def f64Exp (b : F64) : Nat := (b.extractLsb' 52 11).toNat

/-- Bits 51:0, the fraction. -/
def f64Frac (b : F64) : Nat := (b.extractLsb' 0 52).toNat

/-- The pattern is a finite number with sign bit 0. -/
def f64FiniteNonNeg (b : F64) : Bool := !f64Sign b && f64Exp b != 2047

/-- The finest step of binary64 is `2^-1074`. -/
def f64UnitExp : Nat := 1074

/-- The magnitude of a finite pattern, counted in the finest step: its value is
`f64Units b * 2^-1074`. -/
def f64Units (b : F64) : Nat :=
  if f64Exp b = 0 then f64Frac b else (2 ^ 52 + f64Frac b) * 2 ^ (f64Exp b - 1)

/-- The integer nearest to `n / d`, ties to even. -/
def divNearestEven (n d : Nat) : Nat :=
  if 2 * (n % d) < d then n / d
  else if d < 2 * (n % d) then n / d + 1
  else n / d + n / d % 2

/-- How many places the significand of `n / d` stands above the finest step. -/
def ratioShift (n d : Nat) : Nat := Nat.log2 (n * 2 ^ f64UnitExp / d) - 52

/-- The pattern of `+infinity`, above every finite pattern. -/
def f64Infinity : Nat := 0x7FF0000000000000

/-- The `f64` nearest to the rational `n / d`, ties to even, for `d > 0`. A significand of 53 bits at
shift `t` has the pattern `t * 2^52 + significand`; a significand that rounds up to `2^53` carries
into the exponent field by itself. -/
def roundRatio (n d : Nat) : F64 :=
  BitVec.ofNat 64 (min f64Infinity
    (ratioShift n d * 2 ^ 52 + divNearestEven (n * 2 ^ f64UnitExp) (d * 2 ^ ratioShift n d)))

/-- `u32_to_f64(r)` (R98). -/
def u32ToF64 (r : U32) : F64 := roundRatio r.toNat 1

/-- `u64_to_f64(m)` (R99). -/
def u64ToF64 (m : U64) : F64 := roundRatio m.toNat 1

/-- The operands R100 speaks of: finite `x >= 0` and finite `y > 0`. -/
def fdivDefined (x y : F64) : Bool :=
  f64FiniteNonNeg x && f64FiniteNonNeg y && f64Units y != 0

/-- `fdiv64(x, y)` (R100): the `f64` nearest to the exact quotient. -/
def fdiv64 (x y : F64) : F64 :=
  if fdivDefined x y then roundRatio (f64Units x) (f64Units y) else Config.fdivOutside x y

/-- `NORM(r, d)` (R96): one conversion and one division. -/
def normF64 (r : U32) (d : F64) : F64 := fdiv64 (u32ToF64 r) d

end Sys2Proof.Machine
end

