-- ==== Sys2Proof/Machine/State.lean ====
section
/-! DEFINITION. The state of the block (10_state.md R20), its ports, the configuration of the instance
and what the host is about to do; the reasons a step can stop; the state after reset. -/

namespace Sys2Proof.Machine

/-- `TAG` (R21). -/
inductive Tag where
  | none
  | lcg
  | randu
  | xs32
deriving DecidableEq, Repr

/-- The tagged state `GeneratorState` (R20): only the registers of the live variant exist (R26), so a
register of another variant, or any register under `TAG = NONE`, is not there to hold a value (R36). -/
inductive Generator where
  /-- No CONSTRUCT has executed since reset. -/
  | none
  /-- `LCG.A`, `LCG.C`, `LCG.M`, `LCG.STATE` (R22, R23). -/
  | lcg (a c m state : U64)
  /-- `RANDU.STATE` (R24). -/
  | randu (state : U32)
  /-- `XS.STATE` (R25). -/
  | xs32 (state : U32)
deriving DecidableEq, Repr

/-- One thing the host does to the block (R50, R47, R58, R140). DESIGN CHOICE: that each of them is one
event, log entries 1, 4, 5 and 6. -/
inductive HostEvent where
  /-- The one issuer presents one command on `CMD` and `SEED`. -/
  | issue (c : Command)
  /-- Two commands are presented at once, or by two issuers (R47). -/
  | overlap (c d : Command)
  /-- The host reads `RESP_U32` (R58). -/
  | readU32
  /-- The host reads `RESP_F64` (R58). -/
  | readF64
  /-- Hardware reset (R140). -/
  | reset
deriving DecidableEq, Repr

/-- The state of one block and of its ports. -/
structure State where
  /-- `TAG` and the registers of the live variant (R20). -/
  gen     : Generator
  /-- `RESP_U32`, when it has a value (R58); it keeps it until the next command or reset (DEDUCED,
  log entry 3). -/
  respU32 : Option U32
  /-- `RESP_F64`, when it has a value (R58). -/
  respF64 : Option F64
  /-- The configuration triple of the instance: no step writes it (R8, R35).
  DESIGN CHOICE: it stands in the state, log entry 7. -/
  cfg     : LcgConfig
  /-- What the host does next, the first of it first; its head stands on `CMD` and `SEED` (R50).
  DESIGN CHOICE, log entry 1. -/
  host    : List HostEvent
deriving DecidableEq, Repr

/-- The faults (R121): each is the outcome of a command, ends the run (R125), and is stored nowhere. -/
inductive Fault where
  /-- `F_RESERVED_CMD`, code 1: raised by `runCommand` on one of the ten reserved codes, in any state.
  Safe: the model stops where a real block might carry on. -/
  | reservedCmd
  /-- `F_UNCONSTRUCTED`, code 2: raised by `drawRaw`, for ADVANCE_U32 and ADVANCE_F64 with `TAG = NONE`.
  Safe: the model stops where a real block might carry on. -/
  | unconstructed
deriving DecidableEq, Repr

/-- What the spec gives no meaning (R123), and the reserved name of an arm without a meaning. -/
inductive Refusal where
  /-- An arm of `exec` without a meaning; no arm raises it. Safe. -/
  | notModelled (mnemonic : String)
  /-- `MT_OUT_OF_SCOPE`: raised by `execConstructMt` (R74). Safe. -/
  | mtOutOfScope
  /-- `CONCURRENT_ISSUE`: raised by `serveEvent` when commands overlap (R47). Safe. -/
  | concurrentIssue
  /-- `BAD_CONFIG`: raised by `serve` for an instance with `CFG_M = 0`, and by `drawRaw` for an LCG with
  `LCG.M = 0`, which no run reaches (R123). Safe. -/
  | badConfig
  /-- A read of a response port that has no value: raised by `serveEvent`
  (R58; 93_implementation_defined.md U12). Safe. -/
  | portWithoutValue
deriving DecidableEq, Repr

/-- The block right after reset, configured with `cfg`: `TAG = NONE`, so no other register exists, and
neither response port has a value (R36, R140); the host has not begun to do anything. -/
def State.resetWith (cfg : LcgConfig) : State :=
  { gen := .none, respU32 := none, respF64 := none, cfg := cfg, host := [] }

/-- This hardware right after reset: the default triple (R8). -/
def State.reset : State := State.resetWith defaultConfig

end Sys2Proof.Machine
end

