-- ==== Sys2Proof/Machine/Ops.lean ====
section
/-! DEFINITION. The named operations over the state: reading the tag, installing an instance, writing
the live register, driving and reading the response ports, hardware reset, and the host's queue.
The block has no memory (20_memory.md R40), no flag (10_state.md R32) and no trap entry or return
(60_exceptions.md R125, R126), so there are no operations on them. -/

namespace Sys2Proof.Machine

/-- The tag of a tagged state (R21). -/
def tagOf : Generator → Tag
  | .none => .none
  | .lcg _ _ _ _ => .lcg
  | .randu _ => .randu
  | .xs32 _ => .xs32

/-- The two-field encoding `TAG = {VALID, VAR[1:0]}` that R21 suggests; `VAR` under `NONE` is left 0. -/
def tagBits : Tag → BitVec 3
  | .none => 0b000#3
  | .lcg => 0b100#3
  | .randu => 0b101#3
  | .xs32 => 0b110#3

/-- The code numbers that label the faults (R121). -/
def faultCode : Fault → Nat
  | .reservedCmd => 1
  | .unconstructed => 2

/-- A CONSTRUCT replaces the whole tagged state and drives no response port (R26, R58, R70). -/
def install (g : Generator) (s : State) : State :=
  { s with gen := g, respU32 := none, respF64 := none }

/-- `respond_u32(v)`: after ADVANCE_U32 only `RESP_U32` has a value (R58). -/
def respondU32 (v : U32) (s : State) : State :=
  { s with respU32 := some v, respF64 := none }

/-- `respond_f64(v)`: after ADVANCE_F64 only `RESP_F64` has a value (R58). -/
def respondF64 (v : F64) (s : State) : State :=
  { s with respU32 := none, respF64 := some v }

/-- A draw writes the stepped registers of the live variant back. -/
def setGen (g : Generator) (s : State) : State := { s with gen := g }

/-- Hardware reset (R140): no register but `TAG` exists, and no response port has a value. The
configuration is a parameter of the instance and stays (DEDUCED, log entry 7). -/
def hardwareReset (s : State) : State :=
  { s with gen := .none, respU32 := none, respF64 := none }

/-- The host's remaining events. -/
def withHost (es : List HostEvent) (s : State) : State := { s with host := es }

/-- The host presents `c` as its next command. -/
def present (c : Command) (s : State) : State := withHost (.issue c :: s.host) s

/-- Reading a response port changes nothing (R43); a port with no value has no read (R58, U12). -/
def readPort (port : Option (BitVec n)) (s : State) : Host.Outcome State Fault Refusal :=
  match port with
  | some _ => .next s
  | none => .refused .portWithoutValue

end Sys2Proof.Machine
end

