-- ==== Sys2Proof/Machine/Operands.lean ====
section
/-! DEFINITION. The one operand, `SEED`, in the three forms the CONSTRUCT commands take it
(30_encoding.md R55): whole, narrowed, and narrowed with the zero remap. -/

namespace Sys2Proof.Machine

/-- `trunc_32(v)`: the low 32 bits (00_scope.md section 4). -/
def trunc32 (v : U64) : U32 := v.setWidth 32

/-- CONSTRUCT.LCG takes the seed whole, all 64 bits (R71). -/
def seedWhole (seed : U64) : U64 := seed

/-- CONSTRUCT.RANDU takes the seed narrowed to 32 bits, by truncation (R72). -/
def seedNarrowed (seed : U64) : U32 := trunc32 seed

/-- CONSTRUCT.XS32 takes the narrowed seed, or the fallback 1 when that is 0 (R73). -/
def seedNonZero (seed : U64) : U32 :=
  if seedNarrowed seed = 0 then xsFallback else seedNarrowed seed

end Sys2Proof.Machine
end

