-- ==== Sys2Proof/Machine/Recurrence.lean ====
section
/-! DEFINITION. The three recurrences (41_advance_u32.md R81, R84, R86) and their integer arithmetic
(R88): unsigned, silent, without flags. -/

namespace Sys2Proof.Machine

/-- `mulw64(a, b)`: the low 64 bits of the product. -/
def mulw64 (a b : U64) : U64 := a * b

/-- `addw64(a, b)`: the low 64 bits of the sum. -/
def addw64 (a b : U64) : U64 := a + b

/-- `shl32(x, k)`: bits past bit 31 are lost. -/
def shl32 (x : U32) (k : Nat) : U32 := x <<< k

/-- `shr32(x, k)`: logical, zeros enter at bit 31. -/
def shr32 (x : U32) (k : Nat) : U32 := x >>> k

/-- The new `LCG.STATE` (R81), for `m` not 0: multiply and add wrap modulo `2^64`, then the remainder.
For triples whose wrap can matter this rests on decision D12 (DESIGN CHOICE of the spec,
log entry 8). -/
def lcgNext (a c m state : U64) : U64 := addw64 (mulw64 a state) c % m

/-- The raw value an LCG draw yields: the low 32 bits of the new state (R81). -/
def lcgRaw (state' : U64) : U32 := trunc32 state'

/-- The new `RANDU.STATE` (R84): the product over the natural numbers, then the remainder. -/
def randuNext (state : U32) : U32 := BitVec.ofNat 32 (randuMult * state.toNat % randuMod)

/-- The first line of the Xorshift32 recurrence, `x ^= x << 13` (R86). -/
def xsLine1 (x : U32) : U32 := x ^^^ shl32 x xsShiftA

/-- The second line, `x ^= x >> 17` (R86). -/
def xsLine2 (x : U32) : U32 := x ^^^ shr32 x xsShiftB

/-- The third line, `x ^= x << 5` (R86). -/
def xsLine3 (x : U32) : U32 := x ^^^ shl32 x xsShiftC

/-- The new `XS.STATE` (R86): each line uses the result of the one before it. -/
def xs32Next (state : U32) : U32 := xsLine3 (xsLine2 (xsLine1 state))

end Sys2Proof.Machine
end

