-- ==== Sys2Proof/Machine/Advance.lean ====
section
/-! DEFINITION. The draws: ADVANCE_U32 (41_advance_u32.md) and ADVANCE_F64 (42_advance_f64.md). -/

namespace Sys2Proof.Machine

/-- What one step of the live recurrence gives. -/
structure Draw where
  /-- The raw 32-bit value. -/
  raw : U32
  /-- The stepped registers. -/
  next : Generator
  /-- The divisor of the variant (R101, R102, R103). -/
  divisor : F64
deriving DecidableEq, Repr

/-- The dispatch on the stored tag that both draws share (R80, R95), and the step it runs. `LCG.M = 0`
has no remainder (`BAD_CONFIG`, R123). -/
def drawRaw : Generator → Host.Outcome Draw Fault Refusal
  | .none => .fault .unconstructed
  | .lcg a c m st =>
    if m = 0 then .refused .badConfig
    else .next { raw := lcgRaw (lcgNext a c m st), next := .lcg a c m (lcgNext a c m st),
                 divisor := u64ToF64 m }
  | .randu st => .next { raw := randuNext st, next := .randu (randuNext st), divisor := randuDivisor }
  | .xs32 st => .next { raw := xs32Next st, next := .xs32 (xs32Next st), divisor := xsDivisor }

/-- A draw steps the live registers once and then answers as the command says; a stop passes
through, and nothing has been written (R125). -/
def drawThen (answer : Draw → State → State) (s : State) : Host.Outcome State Fault Refusal :=
  match drawRaw s.gen with
  | .next d => .next (answer d (setGen d.next s))
  | .fault f => .fault f
  | .refused r => .refused r

/-- ADVANCE_U32 (R80). -/
def execAdvanceU32 (s : State) : Host.Outcome State Fault Refusal :=
  drawThen (fun d => respondU32 d.raw) s

/-- ADVANCE_F64 (R95). -/
def execAdvanceF64 (s : State) : Host.Outcome State Fault Refusal :=
  drawThen (fun d => respondF64 (normF64 d.raw d.divisor)) s

end Sys2Proof.Machine
end

