-- ==== Sys2Proof/Machine/Construct.lean ====
section
/-! DEFINITION. The CONSTRUCT commands (40_construct.md). -/

namespace Sys2Proof.Machine

/-- CONSTRUCT.LCG (R71): the triple is copied from the configuration, unchecked, and the seed is
neither narrowed nor reduced. -/
def execConstructLcg (seed : U64) (s : State) : Host.Outcome State Fault Refusal :=
  .next (install (.lcg s.cfg.a s.cfg.c s.cfg.m (seedWhole seed)) s)

/-- CONSTRUCT.RANDU (R72). -/
def execConstructRandu (seed : U64) (s : State) : Host.Outcome State Fault Refusal :=
  .next (install (.randu (seedNarrowed seed)) s)

/-- CONSTRUCT.XS32 (R73). -/
def execConstructXs32 (seed : U64) (s : State) : Host.Outcome State Fault Refusal :=
  .next (install (.xs32 (seedNonZero seed)) s)

/-- CONSTRUCT.MT (R74): the spec gives it no meaning; its outcome is `refused(MT_OUT_OF_SCOPE)`. -/
def execConstructMt (_seed : U64) (_s : State) : Host.Outcome State Fault Refusal :=
  .refused .mtOutOfScope

end Sys2Proof.Machine
end

