-- ==== Sys2Proof/Machine/Dispatch.lean ====
section
/-! DEFINITION. The dispatch of the six commands to their meanings, one arm a constructor. -/

namespace Sys2Proof.Machine

def exec (i : Instr) (s : State) : Host.Outcome State Fault Refusal :=
  match i with
  | .constructLcg seed => Sys2Proof.Machine.execConstructLcg seed s
  | .constructRandu seed => Sys2Proof.Machine.execConstructRandu seed s
  | .constructXs32 seed => Sys2Proof.Machine.execConstructXs32 seed s
  | .constructMt seed => Sys2Proof.Machine.execConstructMt seed s
  | .advanceU32 => Sys2Proof.Machine.execAdvanceU32 s
  | .advanceF64 => Sys2Proof.Machine.execAdvanceF64 s

end Sys2Proof.Machine
end

