-- ==== Sys2Proof/Machine/Serve.lean ====
section
/-! DEFINITION. What the block does with the host's next event: the work behind `step`. -/

namespace Sys2Proof.Machine

/-- One command from the ports to its outcome: decode first, without looking at the state (R124), then
run it; a reserved code faults in any state and writes nothing (R56). -/
def runCommand (c : Command) (s : State) : Host.Outcome State Fault Refusal :=
  match decode c with
  | .command i => exec i s
  | .reserved => .fault .reservedCmd

/-- One event of the host, on the block it is done to. -/
def serveEvent (e : HostEvent) (s : State) : Host.Outcome State Fault Refusal :=
  match e with
  | .issue c => runCommand c s
  | .overlap _ _ => .refused .concurrentIssue
  | .readU32 => readPort s.respU32 s
  | .readF64 => readPort s.respF64 s
  | .reset => .next (hardwareReset s)

/-- One step. An instance configured with `CFG_M = 0` has no step (R123; DESIGN CHOICE, log entry 7: the
check stands first). Between commands the block holds its state (R129): a host with nothing to do
leaves everything as it is (DEDUCED, log entry 2). -/
def serve (s : State) : Host.Outcome State Fault Refusal :=
  if s.cfg.m = 0 then .refused .badConfig
  else
    match s.host with
    | [] => .next s
    | e :: rest => serveEvent e (withHost rest s)

end Sys2Proof.Machine
end

