-- ==== Sys2Proof/Machine/Step.lean ====
section
/-! DEFINITION. The step of the machine, and the placing of a table word where it fetches. -/

namespace Sys2Proof.Machine

/-- One step: the host's next event, served to completion (20_memory.md R45). -/
def step (s : State) : Host.Outcome State Fault Refusal := serve s

/-- The host presents the command with these table bits next, before whatever it had in mind. -/
def State.withFetchWord (s : State) (nbits w : Nat) : State := present (commandOfTable nbits w) s

end Sys2Proof.Machine
end

