-- ==== Sys2Proof/Machine/Observe.lean ====
section
/-! DEFINITION. What the host sees of a run (30_encoding.md R59, 70_reset_and_hazards.md R149), and
several blocks side by side (20_memory.md R49). -/

namespace Sys2Proof.Machine

/-- The outcome of one command (R59). -/
inductive CommandOutcome where
  | done
  | doneU32 (v : U32)
  | doneF64 (v : F64)
  | fault (f : Fault)
  | refused (r : Refusal)
deriving DecidableEq, Repr

/-- The result that stands on the ports of a block that has completed a command (R58, R59). -/
def resultOf (s : State) : CommandOutcome :=
  match s.respU32, s.respF64 with
  | some v, _ => .doneU32 v
  | none, some v => .doneF64 v
  | none, none => .done

/-- The outcome a command has (R59). -/
def outcomeOf : Host.Outcome State Fault Refusal → CommandOutcome
  | .next s => resultOf s
  | .fault f => .fault f
  | .refused r => .refused r

/-- The observation of a run (R149): the outcomes of its commands, issued in order and each served by
one step, up to a stop. -/
def observe : List Command → State → List CommandOutcome
  | [], _ => []
  | c :: cs, s =>
    match step (withHost [.issue c] s) with
    | .next t => resultOf t :: observe cs t
    | .fault f => [.fault f]
    | .refused r => [.refused r]

/-- The way out of a faulted run (R125, R140): the fault has written nothing, so the block is still in
the state `s` whose step faulted. If what the host does next after the faulting command is a hardware
reset, the block goes on from there. Anything else has no defined behaviour
(93_implementation_defined.md U9), so there is none (DEDUCED, log entry 6). -/
def leaveFault (s : State) : Option State :=
  match s.host with
  | _ :: .reset :: rest => some (hardwareReset (withHost rest s))
  | _ => none

/-- One of several blocks (R49) and how its own run stands. -/
inductive Block where
  /-- The run goes on from this state. -/
  | live (s : State)
  /-- The command at the head of the host's events faulted on this state and wrote nothing; the run is
  over until hardware reset (R125). The reason is the outcome the host was given, not a register of the
  block (R121). -/
  | faulted (s : State) (f : Fault)
  /-- The run has met something the spec gives no meaning; nothing can be said of the block (R74, R123). -/
  | refused (r : Refusal)
deriving DecidableEq, Repr

/-- One step of one block among several: its own `step`, whose fault or refusal stops this block and no
other (R125 c). A faulted block takes the reset that leaves the fault, and is stuck otherwise
(93_implementation_defined.md U9); a refused one has no step (R123). -/
def stepBlock : Block → Block
  | .live s =>
    match step s with
    | .next t => .live t
    | .fault f => .faulted s f
    | .refused r => .refused r
  | .faulted s f =>
    match leaveFault s with
    | some t => .live t
    | none => .faulted s f
  | .refused r => .refused r

/-- Several blocks are the product of the single blocks with no interaction term (R49): the `k`-th of
them takes its step, whatever became of the others. A number with no block leaves all as they are
(DESIGN CHOICE, log entry 17). -/
def stepAt (bs : List Block) (k : Nat) : List Block := bs.modify k stepBlock

/-- Several blocks under a schedule that says whose step is next; R49 gives no order among blocks. -/
def runBlocks : List Nat → List Block → List Block
  | [], bs => bs
  | k :: ks, bs => runBlocks ks (stepAt bs k)

end Sys2Proof.Machine
end

