-- ==== Sys2Proof/Machine/Driver.lean ====
section
/-! DEFINITION. The host of the block, the Driver, as far as the spec gives it (60_exceptions.md R122,
R130, R131): what it checks before it touches the block, and the commands it then issues. Its text
output is outside the spec (00_scope.md R5). DESIGN CHOICE, log entry 16: text is taken as read. -/

namespace Sys2Proof.Machine

/-- The error taxonomy of the Driver (R122); none of these reaches the block. -/
inductive DriverError where
  | invalidArgumentCount
  | unknownGeneratorName
  | outputUnopenable
  | seedOrCountUnparsable
deriving DecidableEq, Repr

/-- One invocation of the Driver, after its text has been read: a number is none where the text was
not a number the Driver takes. -/
structure Invocation where
  enoughArguments : Bool
  name            : String
  seed            : Option Nat
  count           : Option Nat
  outputOpens     : Bool
deriving DecidableEq, Repr

/-- A seed is a non-negative integer of at most 64 bits (R130). -/
def seedOf (inv : Invocation) : Option Nat :=
  match inv.seed with
  | some x => if x < 2 ^ 64 then some x else none
  | none => none

/-- The errors that apply to an invocation; the spec gives no order among them (R122). -/
def driverErrors (inv : Invocation) : List DriverError :=
  (if inv.enoughArguments then [] else [.invalidArgumentCount])
    ++ (if (variantNamed inv.name).isSome then [] else [.unknownGeneratorName])
    ++ (if inv.outputOpens then [] else [.outputUnopenable])
    ++ (if (seedOf inv).isSome && inv.count.isSome then [] else [.seedOrCountUnparsable])

/-- What the Driver does to the block: nothing at all if any error applies (R122), else the
pseudo-instruction `run` (R61, R130), and then no further command. -/
def driverEvents (inv : Invocation) : List HostEvent :=
  match driverErrors inv, variantNamed inv.name, seedOf inv, inv.count with
  | [], some v, some x, some n => (expand (.run v x n)).map .issue
  | _, _, _, _ => []

end Sys2Proof.Machine
end

