-- ==== Sys2Proof/Safety.lean ====
section
/-! DEFINITION. What counts as a good state and as a host that does its duty, in the terms the claims
use. -/

namespace Sys2Proof.Safety

open Sys2Proof.Machine

/-- `LCG.M` is never 0 (10_state.md R22) and `XS.STATE` is never 0 (R29). -/
def genOk : Generator → Bool
  | .none => true
  | .lcg _ _ m _ => m != 0
  | .randu _ => true
  | .xs32 st => st != 0

/-- The bounds that hold from the end of the first draw on (R27, R28, R29). -/
def genBounded : Generator → Bool
  | .none => false
  | .lcg _ _ m st => decide (st.toNat < m.toNat)
  | .randu st => decide (st.toNat < 2 ^ 31)
  | .xs32 st => st != 0

/-- The raw value of the last draw, read off the registers it left (R34, R81, R84, R86). -/
def rawOf : Generator → Option U32
  | .none => none
  | .lcg _ _ _ st => some (trunc32 st)
  | .randu st => some st
  | .xs32 st => some st

/-- The divisor of the live variant (R101, R102, R103). -/
def divisorOf : Generator → Option F64
  | .none => none
  | .lcg _ _ m _ => some (u64ToF64 m)
  | .randu _ => some randuDivisor
  | .xs32 _ => some xsDivisor

/-- The state invariant: the instance is one the spec gives a meaning, its registers are legal, and at
most one response port has a value. -/
abbrev Inv (s : State) : Prop :=
  s.cfg.m ≠ 0 ∧ genOk s.gen = true ∧ (s.respU32 = none ∨ s.respF64 = none)

/-- A value on a response port is the result of the draw that left the registers as they are, and the
registers then meet the bounds of R27 and R28. -/
abbrev ResponseMatches (s : State) : Prop :=
  (s.respU32.isSome = true → rawOf s.gen = s.respU32) ∧
  (s.respF64.isSome = true →
    (rawOf s.gen).bind (fun r => (divisorOf s.gen).map (normF64 r)) = s.respF64) ∧
  (s.respU32.isSome = true ∨ s.respF64.isSome = true → genBounded s.gen = true)

/-- `TAG` is not `NONE`: a CONSTRUCT has completed since reset. -/
def isConstructed : Generator → Bool
  | .none => false
  | .lcg _ _ _ _ => true
  | .randu _ => true
  | .xs32 _ => true

/-- The host does its duty (60_exceptions.md R132), where it stands on a block that is constructed or
not and whose response ports have a value or not: it issues only defined commands and never
CONSTRUCT.MT, one at a time, draws only once constructed, and reads a port only when it has a
value. -/
def hostDutiful : Bool → Bool → Bool → List HostEvent → Bool
  | _, _, _, [] => true
  | _, _, _, .reset :: es => hostDutiful false false false es
  | k, u, f, .readU32 :: es => u && hostDutiful k u f es
  | k, u, f, .readF64 :: es => f && hostDutiful k u f es
  | _, _, _, .overlap _ _ :: _ => false
  | k, _, _, .issue c :: es =>
    match decode c with
    | .command (.constructLcg _) => hostDutiful true false false es
    | .command (.constructRandu _) => hostDutiful true false false es
    | .command (.constructXs32 _) => hostDutiful true false false es
    | .command (.constructMt _) => false
    | .command .advanceU32 => k && hostDutiful k true false es
    | .command .advanceF64 => k && hostDutiful k false true es
    | .reserved => false

/-- The duty of the host of a given block, from where that block stands. -/
abbrev HostDutiful (s : State) : Prop :=
  hostDutiful (isConstructed s.gen) s.respU32.isSome s.respF64.isSome s.host = true

/-- How far apart two naturals are. -/
def gap (a b : Nat) : Nat := (a - b) + (b - a)

/-- `v` is the finite non-negative `f64` nearest to the rational `n / d`, and where another is as near,
the significand of `v` is even (R99, R100). Both sides are counted in the finest step of binary64 and
multiplied by `d`. -/
def NearestEven (n d : Nat) (v : F64) : Prop :=
  f64FiniteNonNeg v = true ∧
  ∀ w : F64, f64FiniteNonNeg w = true →
    gap (f64Units v * d) (n * 2 ^ f64UnitExp) ≤ gap (f64Units w * d) (n * 2 ^ f64UnitExp) ∧
    (w ≠ v → gap (f64Units v * d) (n * 2 ^ f64UnitExp) = gap (f64Units w * d) (n * 2 ^ f64UnitExp) →
      f64Frac v % 2 = 0)

/-- The three CONSTRUCT commands of the variants in scope (R3). -/
def constructs : Instr → Bool
  | .constructLcg _ => true
  | .constructRandu _ => true
  | .constructXs32 _ => true
  | .constructMt _ => false
  | .advanceU32 => false
  | .advanceF64 => false

/-- The two draws. -/
def draws : Instr → Bool
  | .constructLcg _ => false
  | .constructRandu _ => false
  | .constructXs32 _ => false
  | .constructMt _ => false
  | .advanceU32 => true
  | .advanceF64 => true

end Sys2Proof.Safety
end

