-- ==== Sys2Proof/Certificates/Slice0/Obligations.lean ====
section
/-! DEFINITION. The statements for the provers, grouped as the spec is: encoding, the step and the host,
construction, raw draws, normalized draws, whole-machine rules.

The fields `cfg` and `host` of a state are the model's own (log entries 7 and 1): where a statement says
that they stay as they were, that is its frame, and no rule of the spec is cited for it. -/

open Sys2Proof Sys2Proof.Machine Sys2Proof.Safety

/-! ### Encoding (30_encoding.md) -/

/-- R54: the whole opcode map, on words written out bit by bit. -/
def Obligations.OpcodeMap : Prop :=
  ∀ x : U64,
    decode { cmd := 0b0000#4, seed := x } = .command (.constructLcg x) ∧
    decode { cmd := 0b0001#4, seed := x } = .command (.constructRandu x) ∧
    decode { cmd := 0b0010#4, seed := x } = .command (.constructXs32 x) ∧
    decode { cmd := 0b0011#4, seed := x } = .command (.constructMt x) ∧
    decode { cmd := 0b0100#4, seed := x } = .command .advanceU32 ∧
    decode { cmd := 0b0101#4, seed := x } = .reserved ∧
    decode { cmd := 0b0110#4, seed := x } = .reserved ∧
    decode { cmd := 0b0111#4, seed := x } = .reserved ∧
    decode { cmd := 0b1000#4, seed := x } = .command .advanceF64 ∧
    decode { cmd := 0b1001#4, seed := x } = .reserved ∧
    decode { cmd := 0b1010#4, seed := x } = .reserved ∧
    decode { cmd := 0b1011#4, seed := x } = .reserved ∧
    decode { cmd := 0b1100#4, seed := x } = .reserved ∧
    decode { cmd := 0b1101#4, seed := x } = .reserved ∧
    decode { cmd := 0b1110#4, seed := x } = .reserved ∧
    decode { cmd := 0b1111#4, seed := x } = .reserved

/-- R51, R52, R53: the two fields of a word, their codes, and the names of the variants. -/
def Obligations.FieldCodesAndNames : Prop :=
  (∀ c : Command, opField c = c.cmd.extractLsb 3 2 ∧ varField c = c.cmd.extractLsb 1 0) ∧
  (operationOf 0b00#2 = .construct ∧ operationOf 0b01#2 = .advanceU32 ∧
    operationOf 0b10#2 = .advanceF64 ∧ operationOf 0b11#2 = .reserved) ∧
  (variantOf 0b00#2 = .lcg ∧ variantOf 0b01#2 = .randu ∧
    variantOf 0b10#2 = .xorshift32 ∧ variantOf 0b11#2 = .mt19937) ∧
  (variantNamed "lcg" = some .lcg ∧ variantNamed "randu" = some .randu ∧
    variantNamed "xorshift32" = some .xorshift32 ∧ variantNamed "mt19937" = some .mt19937) ∧
  ∀ name v, variantNamed name = some v → name ∈ ["lcg", "randu", "xorshift32", "mt19937"]

/-- R54, R55: no bit of an encoding is dropped, in either direction. -/
def Obligations.DecodeEncodeRoundTrip : Prop :=
  (∀ i : Instr, decode (encode i) = .command i) ∧
  ∀ (c : Command) (i : Instr), decode c = .command i →
    (encode i).cmd = c.cmd ∧ ∀ x, i.seed? = some x → c.seed = x

/-- R56: which codes are reserved, in the spec's two wordings and by `Command.wellFormed`, and that
presenting one faults in every state. -/
def Obligations.ReservedCodesFault : Prop :=
  ∀ (c : Command) (s : State),
    (decode c = .reserved ↔
      ((opField c = 0b01#2 ∨ opField c = 0b10#2) ∧ varField c ≠ 0b00#2) ∨ opField c = 0b11#2) ∧
    (decode c = .reserved ↔ c.cmd ∈ [0x5#4, 0x6#4, 0x7#4, 0x9#4, 0xA#4, 0xB#4, 0xC#4, 0xD#4, 0xE#4, 0xF#4]) ∧
    (decode c = .reserved ↔ c.wellFormed = false) ∧
    (decode c = .reserved → runCommand c s = .fault .reservedCmd)

/-- R63: the decoder looks at `CMD` alone; the seed only travels along. -/
def Obligations.DecodingIgnoresSeed : Prop :=
  ∀ (c : Command) (x : U64),
    (decode c = .reserved → decode { c with seed := x } = .reserved) ∧
    ∀ i, decode c = .command i →
      ∃ j, decode { c with seed := x } = .command j ∧ (encode j).cmd = (encode i).cmd ∧
        (i.seed? = none → j = i)

/-- R60: an assembler line for a CONSTRUCT is the one command with that variant and that seed, and the
two ADVANCE lines are the words 0x4 and 0x8. -/
def Obligations.AssemblerLines : Prop :=
  (∀ (v : Variant) (x : Nat), (AsmLine.construct v x).wellFormed = true →
    ∃ c, expand (.construct v x) = [c] ∧ operationOf (opField c) = .construct ∧
      variantOf (varField c) = v ∧ c.seed.toNat = x) ∧
  (expand .advanceU32).map Command.cmd = [0x4#4] ∧ (expand .advanceF64).map Command.cmd = [0x8#4]

/-- R21, R121: the suggested encoding of the tag, `VALID` over the variant's own code, never has
`VAR = 3`; the fault codes are 1 and 2. -/
def Obligations.TagAndFaultCodes : Prop :=
  (∀ g : Generator, (tagBits (tagOf g)).msb = isConstructed g ∧ tagBits (tagOf g) ≠ 0b111#3) ∧
  (∀ t u : Tag, tagBits t = tagBits u → t = u) ∧
  (tagBits .lcg).extractLsb 1 0 = variantCode .lcg ∧ (tagBits .randu).extractLsb 1 0 = variantCode .randu ∧
  (tagBits .xs32).extractLsb 1 0 = variantCode .xorshift32 ∧
  faultCode .reservedCmd = 1 ∧ faultCode .unconstructed = 2

/-! ### The step, the ports and the host -/

/-- 20_memory.md R45, 60_exceptions.md R121, R124: when the host's next event is a command, the step runs
it, with that event taken off the host's queue and nothing else around it: `exec i` for a command that
decodes to `i`, and the fault F_RESERVED_CMD for a reserved code. The queue is the model's choice (log
entry 1). -/
def Obligations.StepRunsDecodedInstruction : Prop :=
  ∀ (s : State) (c : Command) (rest : List HostEvent),
    s.cfg.m ≠ 0 → s.host = .issue c :: rest →
    step s = runCommand c { s with host := rest } ∧
    (∀ i, decode c = .command i → step s = exec i { s with host := rest }) ∧
    (decode c = .reserved → step s = .fault .reservedCmd)

/-- A table word placed in front of a state is what the next step runs, on that state. The placing and
the numbering of the seed's bits are the model's choice (log entries 1 and 11). -/
def Obligations.TableWordRunsNext : Prop :=
  ∀ (s : State) (nbits w : Nat) (i : Instr),
    s.cfg.m ≠ 0 → decodeTableWord nbits w = some i → step (s.withFetchWord nbits w) = exec i s

/-- R36, R8: after reset `TAG = NONE`, so no other register exists and no draw reads one; neither
response port has a value; this hardware has the default triple. -/
def Obligations.ResetLeavesNoInstance : Prop :=
  (∀ cfg : LcgConfig,
    (State.resetWith cfg).gen = .none ∧ (State.resetWith cfg).respU32 = none ∧
    (State.resetWith cfg).respF64 = none ∧ (State.resetWith cfg).cfg = cfg ∧
    exec .advanceU32 (State.resetWith cfg) = .fault .unconstructed ∧
    exec .advanceF64 (State.resetWith cfg) = .fault .unconstructed) ∧
  State.reset = State.resetWith { a := 1664525#64, c := 1013904223#64, m := 4294967296#64 }

/-- R140: hardware reset as an event of the host. That the event is one step, and that the
configuration and the host's queue outlive it, is the model's choice (log entries 6 and 7). -/
def Obligations.HardwareResetStep : Prop :=
  ∀ (s : State) (rest : List HostEvent), s.cfg.m ≠ 0 → s.host = .reset :: rest →
    step s = .next { State.resetWith s.cfg with host := rest }

/-- R129, R148: between commands the block holds its state. That this is one step that changes nothing
is the model's choice (log entry 2). -/
def Obligations.IdleBlockHoldsState : Prop :=
  ∀ s : State, s.cfg.m ≠ 0 → s.host = [] → step s = .next s

/-- R47: overlapping commands are refused, whatever they are. -/
def Obligations.OverlapRefused : Prop :=
  ∀ (s : State) (c d : Command) (rest : List HostEvent),
    s.cfg.m ≠ 0 → s.host = .overlap c d :: rest → step s = .refused .concurrentIssue

/-- R123 (`BAD_CONFIG`): an instance configured with `CFG_M = 0` has no step, and an LCG with modulus 0
has no draw. That the check stands before everything else is the model's choice (log entry 7). -/
def Obligations.BadConfigRefused : Prop :=
  (∀ s : State, s.cfg.m = 0 → step s = .refused .badConfig) ∧
  ∀ (s : State) (a c st : U64), s.gen = .lcg a c 0 st →
    exec .advanceU32 s = .refused .badConfig ∧ exec .advanceF64 s = .refused .badConfig

/-- R43, R58: reading a response port that has a value changes nothing, and one that has none cannot be
read. That a read is one step is the model's choice (log entry 4). -/
def Obligations.PortReads : Prop :=
  ∀ (s : State) (rest : List HostEvent), s.cfg.m ≠ 0 →
    (s.host = .readU32 :: rest →
      (∀ v, s.respU32 = some v → step s = .next { s with host := rest }) ∧
      (s.respU32 = none → step s = .refused .portWithoutValue)) ∧
    (s.host = .readF64 :: rest →
      (∀ v, s.respF64 = some v → step s = .next { s with host := rest }) ∧
      (s.respF64 = none → step s = .refused .portWithoutValue))

/-- R58: which response port has a value after which command. -/
def Obligations.ResponsePortsAfterCommand : Prop :=
  ∀ (i : Instr) (s t : State), exec i s = .next t →
    (constructs i = true → t.respU32 = none ∧ t.respF64 = none) ∧
    (i = .advanceU32 → t.respU32.isSome = true ∧ t.respF64 = none) ∧
    (i = .advanceF64 → t.respU32 = none ∧ t.respF64.isSome = true)

/-- R59: the outcome of every command, in every state whose LCG, if it has one, has a modulus (R22;
`Obligations.StepKeepsInvariant` keeps that so). -/
def Obligations.OutcomeOfEveryCommand : Prop :=
  ∀ (c : Command) (s : State), (∀ a k st, s.gen ≠ .lcg a k 0 st) →
    (∀ i, decode c = .command i → constructs i = true → outcomeOf (runCommand c s) = .done) ∧
    (∀ x, decode c = .command (.constructMt x) → outcomeOf (runCommand c s) = .refused .mtOutOfScope) ∧
    (decode c = .command .advanceU32 →
      (s.gen ≠ .none → ∃ v, outcomeOf (runCommand c s) = .doneU32 v) ∧
      (s.gen = .none → outcomeOf (runCommand c s) = .fault .unconstructed)) ∧
    (decode c = .command .advanceF64 →
      (s.gen ≠ .none → ∃ v, outcomeOf (runCommand c s) = .doneF64 v) ∧
      (s.gen = .none → outcomeOf (runCommand c s) = .fault .unconstructed)) ∧
    (decode c = .reserved → outcomeOf (runCommand c s) = .fault .reservedCmd)

/-- R125, R140: a block whose command faulted goes on from hardware reset and from nothing else. That
only a reset right after the faulting command leaves the fault is the model's reading (log entry 6). -/
def Obligations.ResetLeavesFault : Prop :=
  ∀ (s : State) (f : Fault), step s = .fault f →
    (∀ e rest, s.host = e :: .reset :: rest →
      leaveFault s = some { State.resetWith s.cfg with host := rest }) ∧
    ∀ t, leaveFault s = some t → t.gen = .none ∧ s.host[1]? = some .reset

/-! ### Construction (40_construct.md) -/

/-- R71: the triple is copied, the seed is stored whole, and nothing else of the old instance or of the
response ports is left. -/
def Obligations.ConstructLcgResult : Prop :=
  (∀ (s : State) (x : U64), exec (.constructLcg x) s =
    .next { gen := .lcg s.cfg.a s.cfg.c s.cfg.m x, respU32 := none, respF64 := none,
            cfg := s.cfg, host := s.host }) ∧
  ∀ (s t : State) (x : U64), s.cfg = State.reset.cfg → exec (.constructLcg x) s = .next t →
    t.gen = .lcg 1664525#64 1013904223#64 4294967296#64 x

/-- R72: the seed is narrowed to 32 bits by truncation. -/
def Obligations.ConstructRanduResult : Prop :=
  ∀ (s : State) (x : U64), exec (.constructRandu x) s =
    .next { gen := .randu (BitVec.ofNat 32 (x.toNat % 2 ^ 32)), respU32 := none, respF64 := none,
            cfg := s.cfg, host := s.host }

/-- R73: the seed is narrowed to 32 bits, a narrowed 0 becomes 1, and the state is never 0. -/
def Obligations.ConstructXs32Result : Prop :=
  ∀ (s : State) (x : U64), ∃ n : U32,
    exec (.constructXs32 x) s =
      .next { gen := .xs32 n, respU32 := none, respF64 := none, cfg := s.cfg, host := s.host } ∧
    n ≠ 0 ∧
    (x.toNat % 2 ^ 32 = 0 → n = 1) ∧ (x.toNat % 2 ^ 32 ≠ 0 → n.toNat = x.toNat % 2 ^ 32)

/-- R57, R74: CONSTRUCT.MT is refused in every state and for every seed. -/
def Obligations.ConstructMtRefused : Prop :=
  ∀ (s : State) (x : U64), exec (.constructMt x) s = .refused .mtOutOfScope

/-- R70, R75, R76: a CONSTRUCT completes in every state, depends on nothing the block held before, and
doing it again changes nothing; a draw after re-construction repeats the draw after construction. -/
def Obligations.ConstructionIsDeterministic : Prop :=
  ∀ i : Instr, constructs i = true →
    (∀ s s' : State, s.cfg = s'.cfg → ∃ t t', exec i s = .next t ∧ exec i s' = .next t' ∧
      t.gen = t'.gen ∧ t.respU32 = t'.respU32 ∧ t.respF64 = t'.respF64) ∧
    (∀ s t : State, exec i s = .next t → exec i t = .next t) ∧
    (∀ s t₁ t₂ t₃ t₄ : State, exec i s = .next t₁ → exec .advanceU32 t₁ = .next t₂ →
      exec i t₂ = .next t₃ → exec .advanceU32 t₃ = .next t₄ → t₄.respU32 = t₂.respU32)

/-! ### Raw draws (41_advance_u32.md) -/

/-- R80, R81: the LCG draw of a general triple with a modulus: multiply and add wrap modulo `2^64`, then
the remainder; where the wrap cannot matter it is the formula of the recurrence. For a triple and a
state where it can matter, the value rests on decision D12 (DESIGN CHOICE, log entry 8). -/
def Obligations.AdvanceU32Lcg : Prop :=
  ∀ (s : State) (a c m st : U64), s.gen = .lcg a c m st → m ≠ 0 →
    ∃ st' : U64,
      exec .advanceU32 s = .next { gen := .lcg a c m st', respU32 := some (BitVec.ofNat 32 st'.toNat),
                                   respF64 := none, cfg := s.cfg, host := s.host } ∧
      st'.toNat = ((a.toNat * st.toNat) % 2 ^ 64 + c.toNat) % 2 ^ 64 % m.toNat ∧
      ((∃ k, k ≤ 63 ∧ m.toNat = 2 ^ k) ∨ a.toNat * st.toNat + c.toNat < 2 ^ 64 →
        st'.toNat = (a.toNat * st.toNat + c.toNat) % m.toNat)

/-- R82: the LCG draw of this hardware's triple: only the low 32 bits of the old state matter, and the
raw value is the whole new state. -/
def Obligations.AdvanceU32LcgDefault : Prop :=
  ∀ (s : State) (st : U64), s.gen = .lcg 1664525#64 1013904223#64 4294967296#64 st →
    ∃ r : U32,
      exec .advanceU32 s =
        .next { gen := .lcg 1664525#64 1013904223#64 4294967296#64 (r.setWidth 64), respU32 := some r,
                respF64 := none, cfg := s.cfg, host := s.host } ∧
      r.toNat = (1664525 * (st.toNat % 2 ^ 32) + 1013904223) % 2 ^ 32 ∧
      r = 1664525#32 * st.setWidth 32 + 1013904223#32

/-- R80, R84: the RANDU draw, in the three forms the spec gives. -/
def Obligations.AdvanceU32Randu : Prop :=
  ∀ (s : State) (st : U32), s.gen = .randu st →
    ∃ st' : U32,
      exec .advanceU32 s = .next { gen := .randu st', respU32 := some st', respF64 := none,
                                   cfg := s.cfg, host := s.host } ∧
      st'.toNat = (65539 * st.toNat) % 2 ^ 31 ∧
      st' = (65539#32 * st) &&& 0x7FFFFFFF#32 ∧
      st'.toNat = ((shl32 st 16).toNat + (shl32 st 1).toNat + st.toNat) % 2 ^ 31

/-- R85, items a to f: zero absorbs, bit 31 has no effect, trailing zeros are kept, and the bound holds
after the draw. `randuNext` is the step `Obligations.AdvanceU32Randu` gives the value of. -/
def Obligations.RanduCornerCases : Prop :=
  randuNext 0 = 0 ∧ randuNext 0x80000000#32 = 0 ∧
  (∀ st : U32, randuNext (st ^^^ 0x80000000#32) = randuNext st) ∧
  (∀ st : U32, (randuNext st).toNat % 2 = st.toNat % 2) ∧
  (∀ (st : U32) (z : Nat), z < 31 → 2 ^ z ∣ st.toNat → ¬ 2 ^ (z + 1) ∣ st.toNat →
    2 ^ z ∣ (randuNext st).toNat ∧ ¬ 2 ^ (z + 1) ∣ (randuNext st).toNat) ∧
  (∀ st : U32, 2 ^ 31 ∣ st.toNat → randuNext st = 0) ∧
  (∀ st : U32, (randuNext st).toNat < 2 ^ 31) ∧
  randuNext 0x7FFFFFFF#32 = 0x7FFEFFFD#32 ∧ randuNext 0xFFFFFFFF#32 = 0x7FFEFFFD#32

/-- R80, R86: the Xorshift32 draw, line by line. -/
def Obligations.AdvanceU32Xs32 : Prop :=
  ∀ (s : State) (x0 x1 x2 x3 : U32), s.gen = .xs32 x0 →
    x1 = x0 ^^^ (x0 <<< 13) → x2 = x1 ^^^ (x1 >>> 17) → x3 = x2 ^^^ (x2 <<< 5) →
    exec .advanceU32 s = .next { gen := .xs32 x3, respU32 := some x3, respF64 := none,
                                 cfg := s.cfg, host := s.host }

/-- R87: the Xorshift32 step is invertible and keeps 0 apart, so an instance that is not 0 never is, and
no draw of it returns 0. -/
def Obligations.Xs32NeverReachesZero : Prop :=
  (∀ x y : U32, xs32Next x = xs32Next y → x = y) ∧ xs32Next 0 = 0 ∧
  ∀ (s t : State) (x : U32) (i : Instr), s.gen = .xs32 x → x ≠ 0 → draws i = true → exec i s = .next t →
    (∃ y, t.gen = .xs32 y ∧ y ≠ 0) ∧ t.respU32 ≠ some 0

/-- R89, R109: a draw with `TAG = NONE` faults, whatever else the state holds. -/
def Obligations.DrawUnconstructedFaults : Prop :=
  ∀ (s : State) (i : Instr), s.gen = .none → draws i = true → exec i s = .fault .unconstructed

/-- R83, R90: what a draw leaves unchanged: the tag, the LCG's constants, the configuration and the
host's queue. -/
def Obligations.DrawFrame : Prop :=
  ∀ (i : Instr) (s t : State), draws i = true → exec i s = .next t →
    t.cfg = s.cfg ∧ t.host = s.host ∧ tagOf t.gen = tagOf s.gen ∧
    ∀ a c m st, s.gen = .lcg a c m st → ∃ st', t.gen = .lcg a c m st'

/-- R27, R28, R83: after every draw, from whatever state, the bounds of the recurrence hold. -/
def Obligations.BoundsAfterDraw : Prop :=
  ∀ (i : Instr) (s t : State), draws i = true → exec i s = .next t →
    (∀ a c m st, t.gen = .lcg a c m st → st.toNat < m.toNat) ∧
    (∀ st, t.gen = .randu st → st.toNat < 2 ^ 31)

/-- R145: if the low 31 bits of a RANDU seed are zero, every draw gives 0 or +0.0 and the instance stays
at 0; `z` trailing zeros of the seed stay in every draw. -/
def Obligations.RanduZeroHazard : Prop :=
  (∀ (s t : State) (x : U64), x.toNat % 2 ^ 31 = 0 → exec (.constructRandu x) s = .next t →
    exec .advanceU32 t =
      .next { gen := .randu 0, respU32 := some 0, respF64 := none, cfg := s.cfg, host := s.host } ∧
    exec .advanceF64 t =
      .next { gen := .randu 0, respU32 := none, respF64 := some 0, cfg := s.cfg, host := s.host }) ∧
  (∀ s : State, s.gen = .randu 0 →
    exec .advanceU32 s = .next { s with respU32 := some 0, respF64 := none } ∧
    exec .advanceF64 s = .next { s with respU32 := none, respF64 := some 0 }) ∧
  ∀ (s t : State) (st : U32) (z : Nat) (i : Instr), s.gen = .randu st → 2 ^ z ∣ st.toNat → draws i = true →
    exec i s = .next t → ∃ st', t.gen = .randu st' ∧ 2 ^ z ∣ st'.toNat

/-- R146: seeds that give the same draws: after construction and one draw the whole states are equal. -/
def Obligations.SeedAliasing : Prop :=
  ∀ (s t₁ t₂ : State) (x y : U64) (i : Instr), draws i = true →
    (s.cfg = State.reset.cfg → x.toNat % 2 ^ 32 = y.toNat % 2 ^ 32 →
      exec (.constructLcg x) s = .next t₁ → exec (.constructLcg y) s = .next t₂ →
      ∃ t, exec i t₁ = .next t ∧ exec i t₂ = .next t) ∧
    (x.toNat % 2 ^ 31 = y.toNat % 2 ^ 31 →
      exec (.constructRandu x) s = .next t₁ → exec (.constructRandu y) s = .next t₂ →
      ∃ t, exec i t₁ = .next t ∧ exec i t₂ = .next t) ∧
    (x.toNat % 2 ^ 32 = y.toNat % 2 ^ 32 ∨ (x.toNat % 2 ^ 32 = 0 ∧ y.toNat % 2 ^ 32 = 1) →
      exec (.constructXs32 x) s = .next t₁ → exec (.constructXs32 y) s = .next t₂ →
      ∃ t, exec i t₁ = .next t ∧ exec i t₂ = .next t)

/-! ### Normalized draws (42_advance_f64.md) -/

/-- R95, R96, R101 to R103: the normalized draw of each variant: the step of its recurrence, then one
conversion and one division by its own divisor; with `TAG = NONE` it faults. -/
def Obligations.AdvanceF64Result : Prop :=
  (∀ (s : State) (a c m st : U64), s.gen = .lcg a c m st → m ≠ 0 →
    exec .advanceF64 s =
      .next { gen := .lcg a c m (lcgNext a c m st), respU32 := none,
              respF64 := some (fdiv64 (u32ToF64 (BitVec.ofNat 32 (lcgNext a c m st).toNat)) (u64ToF64 m)),
              cfg := s.cfg, host := s.host }) ∧
  (∀ (s : State) (st : U32), s.gen = .randu st →
    exec .advanceF64 s =
      .next { gen := .randu (randuNext st), respU32 := none,
              respF64 := some (fdiv64 (u32ToF64 (randuNext st)) 0x41E0000000000000#64),
              cfg := s.cfg, host := s.host }) ∧
  (∀ (s : State) (st : U32), s.gen = .xs32 st →
    exec .advanceF64 s =
      .next { gen := .xs32 (xs32Next st), respU32 := none,
              respF64 := some (fdiv64 (u32ToF64 (xs32Next st)) 0x41EFFFFFFFE00000#64),
              cfg := s.cfg, host := s.host }) ∧
  (∀ s : State, s.gen = .none → exec .advanceF64 s = .fault .unconstructed)

/-- R107: both draws make the same step, stop in the same way, and the normalized value is the raw value
divided by the divisor of the variant. -/
def Obligations.DrawsShareOneSequence : Prop :=
  ∀ s : State,
    (∀ f, exec .advanceU32 s = .fault f ↔ exec .advanceF64 s = .fault f) ∧
    (∀ r, exec .advanceU32 s = .refused r ↔ exec .advanceF64 s = .refused r) ∧
    (∀ t, exec .advanceU32 s = .next t → ∃ t' r d, exec .advanceF64 s = .next t' ∧ t'.gen = t.gen ∧
      t.respU32 = some r ∧ divisorOf s.gen = some d ∧ t'.respF64 = some (normF64 r d)) ∧
    ∀ t', exec .advanceF64 s = .next t' → ∃ t, exec .advanceU32 s = .next t

/-- R101 to R103: the three divisors as numbers and as patterns. -/
def Obligations.DivisorPatterns : Prop :=
  u64ToF64 4294967296#64 = 0x41F0000000000000#64 ∧
  u32ToF64 2147483648#32 = 0x41E0000000000000#64 ∧ randuDivisor = 0x41E0000000000000#64 ∧
  u32ToF64 0xFFFFFFFF#32 = 0x41EFFFFFFFE00000#64 ∧ xsDivisor = 0x41EFFFFFFFE00000#64

/-- R98, R99: the conversions: exact for every `u32`, exact for every `u64` with at most 53 significant
bits, and nearest (ties to even) for the others. The format and the rounding of the third clause are
decision D13, from general knowledge (PRESUMED, log entry 9). -/
def Obligations.IntegerConversions : Prop :=
  (∀ r : U32, f64FiniteNonNeg (u32ToF64 r) = true ∧ f64Units (u32ToF64 r) = r.toNat * 2 ^ f64UnitExp) ∧
  (∀ (m : U64) (q k : Nat), q ≤ 2 ^ 53 → m.toNat = q * 2 ^ k →
    f64FiniteNonNeg (u64ToF64 m) = true ∧ f64Units (u64ToF64 m) = m.toNat * 2 ^ f64UnitExp) ∧
  ∀ m : U64, NearestEven m.toNat 1 (u64ToF64 m)

/-- R100: division is correctly rounded to nearest, ties to even, whenever the quotient is no larger than
the largest finite `f64`. The premises are R100's own (finite `x >= 0`, finite `y > 0`) and that the
result does not overflow. The format and the rounding are decision D13, from general knowledge
(PRESUMED, log entry 9). -/
def Obligations.DivisionIsCorrectlyRounded : Prop :=
  ∀ x y : F64, fdivDefined x y = true → f64Units x ≤ f64Units y * ((2 ^ 53 - 1) * 2 ^ 971) →
    NearestEven (f64Units x) (f64Units y) (fdiv64 x y)

/-- R100, items a to d: exact for a divisor that is a power of two and a quotient in the normal range;
0 divided is +0.0; a number divided by itself is 1.0; monotonic in the dividend. The format is decision
D13 (PRESUMED, log entry 9). -/
def Obligations.DivisionLaws : Prop :=
  (∀ (x y : F64) (j : Nat), fdivDefined x y = true → f64Units y = 2 ^ j →
    f64Units y ≤ f64Units x * 2 ^ 1022 → f64Units x ≤ f64Units y * ((2 ^ 53 - 1) * 2 ^ 971) →
    f64Units (fdiv64 x y) * f64Units y = f64Units x * 2 ^ f64UnitExp) ∧
  (∀ y : F64, fdivDefined 0 y = true → fdiv64 0 y = 0) ∧
  (∀ y : F64, fdivDefined y y = true → fdiv64 y y = 0x3FF0000000000000#64) ∧
  ∀ x x' y : F64, fdivDefined x y = true → fdivDefined x' y = true → f64Units x ≤ f64Units x' →
    (fdiv64 x y).toNat ≤ (fdiv64 x' y).toNat

/-- R104: the exact bit pattern of a raw value divided by a power of two. -/
def Obligations.PowerOfTwoDivisorExact : Prop :=
  ∀ (r : U32) (k : Nat), k ≤ 63 →
    (r = 0 → normF64 r (u64ToF64 (BitVec.ofNat 64 (2 ^ k))) = 0) ∧
    (∀ e : Nat, 2 ^ e ≤ r.toNat → r.toNat < 2 ^ (e + 1) →
      normF64 r (u64ToF64 (BitVec.ofNat 64 (2 ^ k))) =
        BitVec.ofNat 64 ((1023 + e - k) * 2 ^ 52 + (r.toNat - 2 ^ e) * 2 ^ (52 - e)))

/-- R103, R105: the range of the Xorshift32 results, closed at 1.0, with its least and greatest values:
of the normalization of a raw value, and of ADVANCE_F64 from a live state that is not 0. The rounding is
decision D13 (PRESUMED, log entry 9). -/
def Obligations.Xs32ResultRange : Prop :=
  (∀ r : U32, r ≠ 0 →
    0x3DF0000000100000 ≤ (normF64 r xsDivisor).toNat ∧ (normF64 r xsDivisor).toNat ≤ 0x3FF0000000000000 ∧
    (normF64 r xsDivisor = 0x3FF0000000000000#64 ↔ r = 0xFFFFFFFF#32) ∧
    (r ≠ 0xFFFFFFFF#32 → (normF64 r xsDivisor).toNat ≤ 0x3FEFFFFFFFE00000)) ∧
  ∀ (s t : State) (x : U32), s.gen = .xs32 x → x ≠ 0 → exec .advanceF64 s = .next t →
    ∃ v, t.respF64 = some v ∧ 0x3DF0000000100000 ≤ v.toNat ∧ v.toNat ≤ 0x3FF0000000000000 ∧
      (v = 0x3FF0000000000000#64 ↔ t.gen = .xs32 0xFFFFFFFF#32) ∧
      (t.gen ≠ .xs32 0xFFFFFFFF#32 → v.toNat ≤ 0x3FEFFFFFFFE00000)

/-- R105: the half-open ranges: RANDU, the LCG of this hardware's modulus, and an LCG with any modulus:
of the normalization of a raw value, and of ADVANCE_F64. The rounding, where a modulus is no power of
two, is decision D13 (PRESUMED, log entry 9). -/
def Obligations.LcgAndRanduResultRange : Prop :=
  (∀ r : U32, r.toNat < 2 ^ 31 → (normF64 r randuDivisor).toNat ≤ 0x3FEFFFFFFFC00000) ∧
  (∀ r : U32, (normF64 r (u64ToF64 4294967296#64)).toNat ≤ 0x3FEFFFFFFFE00000) ∧
  (∀ (r : U32) (m : U64), r.toNat < m.toNat → (normF64 r (u64ToF64 m)).toNat < 0x3FF0000000000000) ∧
  ∀ s t : State, exec .advanceF64 s = .next t →
    (∀ st, s.gen = .randu st → ∃ v, t.respF64 = some v ∧ v.toNat ≤ 0x3FEFFFFFFFC00000) ∧
    (∀ a c st, s.gen = .lcg a c 4294967296#64 st → ∃ v, t.respF64 = some v ∧ v.toNat ≤ 0x3FEFFFFFFFE00000) ∧
    ∀ a c m st, s.gen = .lcg a c m st → ∃ v, t.respF64 = some v ∧ v.toNat < 0x3FF0000000000000

/-- R106: ADVANCE_F64 never divides outside the operands R100 speaks of, and never produces a NaN, an
infinity, a negative zero or a subnormal; a result that is not zero is at least `2^-64`. -/
def Obligations.NoSpecialValues : Prop :=
  (∀ (g : Generator) (d : Draw), drawRaw g = .next d → fdivDefined (u32ToF64 d.raw) d.divisor = true) ∧
  ∀ s t : State, exec .advanceF64 s = .next t →
    ∃ v, t.respF64 = some v ∧ f64FiniteNonNeg v = true ∧ v.toNat ≤ 0x3FF0000000000000 ∧
      (v = 0 ∨ 1023 - 64 ≤ f64Exp v)

/-- R110: for one variant, a larger raw value has a larger normalized value. The rounding is decision D13
(PRESUMED, log entry 9). -/
def Obligations.NormStrictlyMonotone : Prop :=
  ∀ (r r' : U32) (d : F64), d ∈ [u64ToF64 4294967296#64, randuDivisor, xsDivisor] → r.toNat < r'.toNat →
    (normF64 r d).toNat < (normF64 r' d).toNat

/-! ### Whole-machine rules -/

/-- The reset state meets both invariants. -/
def Obligations.ResetMeetsInvariants : Prop :=
  Inv State.reset ∧ ResponseMatches State.reset

/-- R22, R29, R58: every step from a good state leads to a good state: the modulus of a live LCG is not
0, the Xorshift32 state is not 0, at most one response port has a value. -/
def Obligations.StepKeepsInvariant : Prop :=
  ∀ s t : State, Inv s → step s = .next t → Inv t

/-- R34, R58, R27, R28: along every step, a value on a response port is the result of the draw that left
the registers as they stand, and the registers are then within the bounds of the recurrence. -/
def Obligations.StepKeepsResponseMatching : Prop :=
  ∀ s t : State, Inv s → ResponseMatches s → step s = .next t → ResponseMatches t

/-- R120, R132: under a host that does its duty no command faults or is refused, and the duty is left as
it was for the next step. That the host is a queue of events is the model's choice (log entry 1). -/
def Obligations.DutifulHostNeverStops : Prop :=
  ∀ s : State, Inv s → HostDutiful s → ∃ t, step s = .next t ∧ Inv t ∧ HostDutiful t

/-- No step, hardware reset included, writes the configuration, and each serves exactly one event of the
host. Both are the model's own: that the configuration stands in the state and outlives every step is
log entry 7 (DESIGN CHOICE, and DEDUCED from R8 and R35), the host's queue is log entry 1. -/
def Obligations.StepFrame : Prop :=
  ∀ s t : State, step s = .next t → t.cfg = s.cfg ∧ t.host = s.host.tail

/-- R22: the LCG's constants are fixed at construction: between two LCG states only CONSTRUCT.LCG writes
them, and it writes the configuration. -/
def Obligations.LcgConstantsFixedAtConstruction : Prop :=
  ∀ (s t : State) (a c m st : U64), step s = .next t → t.gen = .lcg a c m st →
    (∃ x rest, s.host = .issue { cmd := 0x0#4, seed := x } :: rest ∧
      a = s.cfg.a ∧ c = s.cfg.c ∧ m = s.cfg.m ∧ st = x) ∨
    ∃ st₀, s.gen = .lcg a c m st₀

/-- R21, R76: the tag changes only by a CONSTRUCT or by reset, and returns to `NONE` only by reset. -/
def Obligations.TagWrittenOnlyByConstructAndReset : Prop :=
  ∀ s t : State, step s = .next t → tagOf t.gen ≠ tagOf s.gen →
    (s.host.head? = some .reset ∧ t.gen = .none) ∨
    ∃ c, s.host.head? = some (.issue c) ∧ opField c = 0b00#2 ∧ t.gen ≠ .none

/-- R91, R149: what is observed of a run that begins with a CONSTRUCT depends on the commands and the
configuration alone, not on what the block held, its ports, or what else the host had in mind. -/
def Obligations.ObservationDependsOnCommandsOnly : Prop :=
  ∀ (s s' : State) (c : Command) (i : Instr) (cs : List Command),
    s.cfg = s'.cfg → decode c = .command i → constructs i = true →
    observe (c :: cs) s = observe (c :: cs) s'

/-- R122, R130, R131: an invocation with an error does nothing to the block; one without issues the
CONSTRUCT and then exactly N draws; and unless the variant is the Mersenne Twister, that host does
its duty from reset. -/
def Obligations.DriverIsDutiful : Prop :=
  ∀ inv : Invocation,
    (driverErrors inv ≠ [] → driverEvents inv = []) ∧
    (driverErrors inv = [] → ∃ v x n, variantNamed inv.name = some v ∧ inv.seed = some x ∧ x < 2 ^ 64 ∧
      inv.count = some n ∧ driverEvents inv =
        .issue (constructCommand v x) :: List.replicate n (.issue { cmd := 0x8#4, seed := 0 })) ∧
    (variantNamed inv.name ≠ some .mt19937 → hostDutiful false false false (driverEvents inv) = true)

/-- R49, R125, R123: how the run of one block among several goes: a step that completes, a fault, a
refusal; a faulted block is left by a reset right after the faulting command and by nothing else (the
model's reading, log entry 6), and a refused one stays refused. -/
def Obligations.BlockStopsByItself : Prop :=
  (∀ s t, step s = .next t → stepBlock (.live s) = .live t) ∧
  (∀ s f, step s = .fault f → stepBlock (.live s) = .faulted s f) ∧
  (∀ s r, step s = .refused r → stepBlock (.live s) = .refused r) ∧
  (∀ s f e rest, s.host = e :: .reset :: rest →
    stepBlock (.faulted s f) = .live { State.resetWith s.cfg with host := rest }) ∧
  (∀ s f, s.host[1]? ≠ some .reset → stepBlock (.faulted s f) = .faulted s f) ∧
  ∀ r, stepBlock (.refused r) = .refused r

/-- R49: several blocks are the product of the single blocks with no interaction term: a step of the
`k`-th is that block's own and leaves every other as it was, whether it completes, faults or is refused;
and under any schedule each block is where its own steps, as many as the schedule gives it, bring it. -/
def Obligations.BlocksAreIndependent : Prop :=
  (∀ (bs : List Block) (k : Nat),
    (stepAt bs k)[k]? = bs[k]?.map stepBlock ∧ ∀ j, j ≠ k → (stepAt bs k)[j]? = bs[j]?) ∧
  ∀ (ks : List Nat) (bs : List Block) (k : Nat),
    (runBlocks ks bs)[k]? = bs[k]?.map (stepBlock^[ks.count k])
end

