-- ==== Sys2Proof/Laws/State.lean ====
section
/-! SUPPORT. One lemma per field and update of the state, so that no proof unfolds a record update. -/

namespace Sys2Proof.Machine

variable (g : Generator) (v : U32) (w : F64) (es : List HostEvent) (c : Command) (s : State)

@[simp] theorem install_gen : (install g s).gen = g := rfl
@[simp] theorem install_respU32 : (install g s).respU32 = none := rfl
@[simp] theorem install_respF64 : (install g s).respF64 = none := rfl
@[simp] theorem install_cfg : (install g s).cfg = s.cfg := rfl
@[simp] theorem install_host : (install g s).host = s.host := rfl

@[simp] theorem respondU32_gen : (respondU32 v s).gen = s.gen := rfl
@[simp] theorem respondU32_respU32 : (respondU32 v s).respU32 = some v := rfl
@[simp] theorem respondU32_respF64 : (respondU32 v s).respF64 = none := rfl
@[simp] theorem respondU32_cfg : (respondU32 v s).cfg = s.cfg := rfl
@[simp] theorem respondU32_host : (respondU32 v s).host = s.host := rfl

@[simp] theorem respondF64_gen : (respondF64 w s).gen = s.gen := rfl
@[simp] theorem respondF64_respU32 : (respondF64 w s).respU32 = none := rfl
@[simp] theorem respondF64_respF64 : (respondF64 w s).respF64 = some w := rfl
@[simp] theorem respondF64_cfg : (respondF64 w s).cfg = s.cfg := rfl
@[simp] theorem respondF64_host : (respondF64 w s).host = s.host := rfl

@[simp] theorem setGen_gen : (setGen g s).gen = g := rfl
@[simp] theorem setGen_respU32 : (setGen g s).respU32 = s.respU32 := rfl
@[simp] theorem setGen_respF64 : (setGen g s).respF64 = s.respF64 := rfl
@[simp] theorem setGen_cfg : (setGen g s).cfg = s.cfg := rfl
@[simp] theorem setGen_host : (setGen g s).host = s.host := rfl

@[simp] theorem hardwareReset_gen : (hardwareReset s).gen = .none := rfl
@[simp] theorem hardwareReset_respU32 : (hardwareReset s).respU32 = none := rfl
@[simp] theorem hardwareReset_respF64 : (hardwareReset s).respF64 = none := rfl
@[simp] theorem hardwareReset_cfg : (hardwareReset s).cfg = s.cfg := rfl
@[simp] theorem hardwareReset_host : (hardwareReset s).host = s.host := rfl

@[simp] theorem withHost_gen : (withHost es s).gen = s.gen := rfl
@[simp] theorem withHost_respU32 : (withHost es s).respU32 = s.respU32 := rfl
@[simp] theorem withHost_respF64 : (withHost es s).respF64 = s.respF64 := rfl
@[simp] theorem withHost_cfg : (withHost es s).cfg = s.cfg := rfl
@[simp] theorem withHost_host : (withHost es s).host = es := rfl

@[simp] theorem present_gen : (present c s).gen = s.gen := rfl
@[simp] theorem present_respU32 : (present c s).respU32 = s.respU32 := rfl
@[simp] theorem present_respF64 : (present c s).respF64 = s.respF64 := rfl
@[simp] theorem present_cfg : (present c s).cfg = s.cfg := rfl
@[simp] theorem present_host : (present c s).host = .issue c :: s.host := rfl

end Sys2Proof.Machine
end

