-- ==== Sys2Proof/Laws/Ops.lean ====
section
/-! SUPPORT. What each shared operation can do, once: a proof about a step cites these and unfolds
nothing. -/

namespace Sys2Proof.Machine

variable {s t : State}

/-- A read of a port answers a next state only when the port has a value, and changes nothing. -/
theorem readPort_next {port : Option (BitVec n)} (h : readPort port s = .next t) :
    port.isSome = true ∧ t = s := by
  cases port with
  | none => cases h
  | some v => cases h; exact ⟨rfl, rfl⟩

/-- A port that has a value can be read. -/
theorem readPort_some (v : BitVec n) : readPort (some v) s = .next s := rfl

/-- The four ways a draw can go, by the stored tag; only the three with an instance that has a
remainder step the live registers. -/
theorem drawRaw_next {g : Generator} {d : Draw} (h : drawRaw g = .next d) :
    (∃ a c m st, g = .lcg a c m st ∧ m ≠ 0 ∧
      d = { raw := lcgRaw (lcgNext a c m st), next := .lcg a c m (lcgNext a c m st),
            divisor := u64ToF64 m }) ∨
    (∃ st, g = .randu st ∧
      d = { raw := randuNext st, next := .randu (randuNext st), divisor := randuDivisor }) ∨
    (∃ st, g = .xs32 st ∧
      d = { raw := xs32Next st, next := .xs32 (xs32Next st), divisor := xsDivisor }) := by
  cases g with
  | none => cases h
  | lcg a c m st =>
    simp only [drawRaw] at h
    split at h
    · cases h
    · next hm => cases h; exact .inl ⟨a, c, m, st, rfl, hm, rfl⟩
  | randu st => cases h; exact .inr (.inl ⟨st, rfl, rfl⟩)
  | xs32 st => cases h; exact .inr (.inr ⟨st, rfl, rfl⟩)

/-- A draw from an LCG with a modulus. -/
theorem drawRaw_lcg {a c m st : U64} (hm : m ≠ 0) :
    drawRaw (.lcg a c m st) =
      .next { raw := lcgRaw (lcgNext a c m st), next := .lcg a c m (lcgNext a c m st),
              divisor := u64ToF64 m } := if_neg hm

/-- A draw that completes has stepped the registers and then answered. -/
theorem drawThen_next {answer : Draw → State → State} (h : drawThen answer s = .next t) :
    ∃ d, drawRaw s.gen = .next d ∧ t = answer d (setGen d.next s) := by
  simp only [drawThen] at h
  split at h
  · next d hd => cases h; exact ⟨d, hd, rfl⟩
  · cases h
  · cases h

/-- A draw whose step of the recurrence completes does complete. -/
theorem drawThen_of_next {answer : Draw → State → State} {d : Draw} (h : drawRaw s.gen = .next d) :
    drawThen answer s = .next (answer d (setGen d.next s)) := by
  simp only [drawThen, h]

/-- The two draws, from what the step of the recurrence gives. -/
theorem exec_advanceU32_of_draw {d : Draw} (h : drawRaw s.gen = .next d) :
    exec .advanceU32 s = .next (respondU32 d.raw (setGen d.next s)) := drawThen_of_next h

theorem exec_advanceF64_of_draw {d : Draw} (h : drawRaw s.gen = .next d) :
    exec .advanceF64 s = .next (respondF64 (normF64 d.raw d.divisor) (setGen d.next s)) := drawThen_of_next h

/-- The five ways an instruction answers a next state. -/
theorem exec_next {i : Instr} (h : exec i s = .next t) :
    (∃ x, i = .constructLcg x ∧ t = install (.lcg s.cfg.a s.cfg.c s.cfg.m x) s) ∨
    (∃ x, i = .constructRandu x ∧ t = install (.randu (seedNarrowed x)) s) ∨
    (∃ x, i = .constructXs32 x ∧ t = install (.xs32 (seedNonZero x)) s) ∨
    (i = .advanceU32 ∧ ∃ d, drawRaw s.gen = .next d ∧ t = respondU32 d.raw (setGen d.next s)) ∨
    (i = .advanceF64 ∧
      ∃ d, drawRaw s.gen = .next d ∧ t = respondF64 (normF64 d.raw d.divisor) (setGen d.next s)) := by
  cases i with
  | constructLcg x => cases h; exact .inl ⟨x, rfl, rfl⟩
  | constructRandu x => cases h; exact .inr (.inl ⟨x, rfl, rfl⟩)
  | constructXs32 x => cases h; exact .inr (.inr (.inl ⟨x, rfl, rfl⟩))
  | constructMt x => cases h
  | advanceU32 => exact .inr (.inr (.inr (.inl ⟨rfl, drawThen_next h⟩)))
  | advanceF64 => exact .inr (.inr (.inr (.inr ⟨rfl, drawThen_next h⟩)))

/-- A command that completes was decoded to an instruction that did. -/
theorem runCommand_next {c : Command} (h : runCommand c s = .next t) :
    ∃ i, decode c = .command i ∧ exec i s = .next t := by
  simp only [runCommand] at h
  split at h
  · next i hi => exact ⟨i, hi, h⟩
  · cases h

/-- The ways an event of the host answers a next state. -/
theorem serveEvent_next {e : HostEvent} (h : serveEvent e s = .next t) :
    (∃ c i, e = .issue c ∧ decode c = .command i ∧ exec i s = .next t) ∨
    (e = .readU32 ∧ s.respU32.isSome = true ∧ t = s) ∨
    (e = .readF64 ∧ s.respF64.isSome = true ∧ t = s) ∨
    (e = .reset ∧ t = hardwareReset s) := by
  cases e with
  | issue c =>
    obtain ⟨i, hd, hx⟩ := runCommand_next h
    exact .inl ⟨c, i, rfl, hd, hx⟩
  | overlap c d => cases h
  | readU32 => exact .inr (.inl ⟨rfl, readPort_next h⟩)
  | readF64 => exact .inr (.inr (.inl ⟨rfl, readPort_next h⟩))
  | reset => cases h; exact .inr (.inr (.inr ⟨rfl, rfl⟩))

/-- The two ways a step answers a next state: the host does nothing, or its next event is served. -/
theorem step_next (h : step s = .next t) :
    s.cfg.m ≠ 0 ∧ ((s.host = [] ∧ t = s) ∨
      ∃ e rest, s.host = e :: rest ∧ serveEvent e (withHost rest s) = .next t) := by
  simp only [step, serve] at h
  split at h
  · cases h
  · next hm =>
    refine ⟨hm, ?_⟩
    split at h
    · next hh => cases h; exact .inl ⟨hh, rfl⟩
    · next e rest hh => exact .inr ⟨e, rest, hh, h⟩

/-- A step serves the host's next event. -/
theorem step_serves {e : HostEvent} {rest : List HostEvent} (hm : s.cfg.m ≠ 0)
    (hh : s.host = e :: rest) : step s = serveEvent e (withHost rest s) := by
  simp only [step, serve, if_neg hm, hh]

end Sys2Proof.Machine
end

