-- ==== Sys2Proof/Laws/Blocks.lean ====
section
/-! SUPPORT. What the step of one block among several can do. -/

namespace Sys2Proof.Machine

/-- A block leaves its fault only to the reset state of its own configuration, by a reset right after the
command that faulted. -/
theorem leaveFault_some {s t : State} (h : leaveFault s = some t) :
    ∃ e rest, s.host = e :: .reset :: rest ∧ t = hardwareReset (withHost rest s) := by
  unfold leaveFault at h
  split at h
  · next e rest hh => cases h; exact ⟨e, rest, hh, rfl⟩
  · cases h

/-- A block runs after its step only if it ran and completed, or left a fault by reset. -/
theorem stepBlock_live_inv {b : Block} {t : State} (h : stepBlock b = .live t) :
    (∃ s, b = .live s ∧ step s = .next t) ∨ (∃ s f, b = .faulted s f ∧ leaveFault s = some t) := by
  cases b with
  | live s =>
    simp only [stepBlock] at h
    split at h <;> cases h
    next hs => exact .inl ⟨s, rfl, hs⟩
  | faulted s f =>
    simp only [stepBlock] at h
    split at h <;> cases h
    next hs => exact .inr ⟨s, f, rfl, hs⟩
  | refused r => cases h

end Sys2Proof.Machine
end

