-- ==== Sys2Proof/Laws/Decode.lean ====
section
/-! SUPPORT. The decoder on the words the encoder makes, field by field. -/

namespace Sys2Proof

/-- The fields of a word put together from fields. -/
theorem opField_cmdWord (op var : BitVec 2) (x : U64) :
    opField { cmd := cmdWord op var, seed := x } = op := by
  revert op var; simp only [opField, cmdWord]; decide

theorem varField_cmdWord (op var : BitVec 2) (x : U64) :
    varField { cmd := cmdWord op var, seed := x } = var := by
  revert op var; simp only [varField, cmdWord]; decide

/-- A command word is its two fields. -/
theorem cmdWord_fields (c : Command) : cmdWord (opField c) (varField c) = c.cmd := by
  obtain ⟨cmd, x⟩ := c
  revert cmd; simp only [opField, varField, cmdWord]; decide

/-- The variant of a code, and back. -/
theorem variantOf_variantCode (v : Variant) : variantOf (variantCode v) = v := by
  cases v <;> rfl

theorem variantCode_variantOf (b : BitVec 2) : variantCode (variantOf b) = b := by
  revert b; decide

/-- `construct <variant>, <seed>` decodes to the CONSTRUCT of that variant (R60). -/
theorem decode_constructCommand (v : Variant) (x : Nat) :
    decode (constructCommand v x) = .command (match v with
      | .lcg => .constructLcg (BitVec.ofNat 64 x)
      | .randu => .constructRandu (BitVec.ofNat 64 x)
      | .xorshift32 => .constructXs32 (BitVec.ofNat 64 x)
      | .mt19937 => .constructMt (BitVec.ofNat 64 x)) := by
  simp only [decode, constructCommand, opField_cmdWord, varField_cmdWord, variantOf_variantCode]
  cases v <;> rfl

end Sys2Proof
end

