-- ==== Sys2Proof/Laws/F64.lean ====
section
/-! SUPPORT. The lemmas of the binary64 primitives: the fields of a pattern, what a pattern counts, the
error of a rounded division, and when `roundRatio` is exact. -/

namespace Sys2Proof.Machine

theorem f64Exp_eq (b : F64) : f64Exp b = b.toNat / 2 ^ 52 % 2 ^ 11 := by
  simp [f64Exp, BitVec.extractLsb'_toNat, Nat.shiftRight_eq_div_pow]

theorem f64Frac_eq (b : F64) : f64Frac b = b.toNat % 2 ^ 52 := by
  simp [f64Frac, BitVec.extractLsb'_toNat]

/-- A significand of 53 bits at shift `t` (of fewer only at shift 0) counts as the significand times
`2^t`, the carry to `2^53` included. -/
theorem f64Units_parts {t sig : Nat} (hs : sig ≤ 2 ^ 53) (ht : t = 0 ∨ 2 ^ 52 ≤ sig)
    (hb : t * 2 ^ 52 + sig < f64Infinity) :
    f64Units (BitVec.ofNat 64 (t * 2 ^ 52 + sig)) = sig * 2 ^ t := by
  have hn : (BitVec.ofNat 64 (t * 2 ^ 52 + sig)).toNat = t * 2 ^ 52 + sig := by
    rw [BitVec.toNat_ofNat]; apply Nat.mod_eq_of_lt
    exact hb.trans (by decide)
  unfold f64Infinity at hb
  simp only [f64Units, f64Exp_eq, f64Frac_eq, hn]
  rcases Nat.lt_or_ge sig (2 ^ 52) with h | h
  · obtain rfl : t = 0 := by omega
    have h1 : (0 * 2 ^ 52 + sig) / 2 ^ 52 = 0 := by omega
    rw [h1]; simp only [Nat.zero_mod, if_true]; omega
  · rcases Nat.lt_or_ge sig (2 ^ 53) with h' | h'
    · have h1 : (t * 2 ^ 52 + sig) / 2 ^ 52 % 2 ^ 11 = t + 1 := by omega
      have h2 : (t * 2 ^ 52 + sig) % 2 ^ 52 = sig - 2 ^ 52 := by omega
      rw [h1, h2, if_neg (by omega), Nat.add_sub_cancel, Nat.add_sub_cancel' h]
    · obtain rfl : sig = 2 ^ 53 := le_antisymm hs h'
      have h1 : (t * 2 ^ 52 + 2 ^ 53) / 2 ^ 52 % 2 ^ 11 = t + 2 := by omega
      have h2 : (t * 2 ^ 52 + 2 ^ 53) % 2 ^ 52 = 0 := by omega
      rw [h1, h2, if_neg (by omega)]
      show (2 ^ 52 + 0) * 2 ^ (t + 1) = 2 ^ 53 * 2 ^ t
      rw [Nat.pow_succ 2 t]; ring

/-- A division without remainder is not rounded. -/
theorem divNearestEven_exact (q : Nat) {d : Nat} (hd : 0 < d) : divNearestEven (d * q) d = q := by
  simp [divNearestEven, hd]

/-- A rounded division is off by at most half the divisor. -/
theorem divNearestEven_error (n : Nat) {d : Nat} (hd : 0 < d) :
    2 * (d * divNearestEven n d) ≤ 2 * n + d ∧ 2 * n ≤ 2 * (d * divNearestEven n d) + d := by
  have hq := Nat.div_add_mod n d
  have hr := Nat.mod_lt n hd
  have hs : d * (n / d + 1) = d * (n / d) + d := Nat.mul_succ _ _
  unfold divNearestEven
  split
  · omega
  split
  · rw [hs]; omega
  · rcases Nat.mod_two_eq_zero_or_one (n / d) with h | h <;> rw [h]
    · rw [Nat.add_zero]; omega
    · rw [hs]; omega

/-- A rounded division is the floor or one more. -/
theorem divNearestEven_floor (n d : Nat) : n / d ≤ divNearestEven n d ∧ divNearestEven n d ≤ n / d + 1 := by
  unfold divNearestEven
  split
  · omega
  split <;> omega

/-- The shift of a ratio whose significand lies in a given binade. -/
theorem ratioShift_eq {n d t : Nat} (hd : 0 < d)
    (lo : 2 ^ 52 * (d * 2 ^ t) ≤ n * 2 ^ f64UnitExp)
    (hi : n * 2 ^ f64UnitExp < 2 ^ 53 * (d * 2 ^ t)) : ratioShift n d = t := by
  have h1 : 2 ^ (52 + t) ≤ n * 2 ^ f64UnitExp / d := by
    rw [Nat.le_div_iff_mul_le hd, pow_add]
    calc 2 ^ 52 * 2 ^ t * d = 2 ^ 52 * (d * 2 ^ t) := by ring
      _ ≤ _ := lo
  have h2 : n * 2 ^ f64UnitExp / d < 2 ^ (52 + t + 1) := by
    rw [Nat.div_lt_iff_lt_mul hd, pow_succ, pow_add]
    calc n * 2 ^ f64UnitExp < 2 ^ 53 * (d * 2 ^ t) := hi
      _ = 2 ^ 52 * 2 ^ t * 2 * d := by ring
  have h0 : n * 2 ^ f64UnitExp / d ≠ 0 := by
    have := Nat.two_pow_pos (52 + t); omega
  have hl : Nat.log2 (n * 2 ^ f64UnitExp / d) = 52 + t := by
    have a := (Nat.le_log2 h0).2 h1
    have b := (Nat.log2_lt h0).2 h2
    omega
  unfold ratioShift; rw [hl]; omega

/-- The significand of a ratio, before it is rounded, at the ratio's shift: below `2^53`, and of 53 bits
unless the shift is 0. -/
theorem ratio_significand (n d : Nat) :
    n * 2 ^ f64UnitExp / (d * 2 ^ ratioShift n d) < 2 ^ 53 ∧
    (ratioShift n d = 0 ∨ 2 ^ 52 ≤ n * 2 ^ f64UnitExp / (d * 2 ^ ratioShift n d)) := by
  rw [← Nat.div_div_eq_div_mul]
  unfold ratioShift
  generalize n * 2 ^ f64UnitExp / d = q
  have hlt : q < 2 ^ (q.log2 + 1) := Nat.lt_log2_self
  rcases Nat.lt_or_ge 52 q.log2 with h | h
  · obtain ⟨t, ht⟩ : ∃ t, q.log2 = 52 + t := ⟨q.log2 - 52, by omega⟩
    have h0 : q ≠ 0 := by rintro rfl; simp at h
    have hle : 2 ^ q.log2 ≤ q := Nat.log2_self_le h0
    rw [ht] at hlt hle ⊢
    rw [Nat.add_sub_cancel_left]
    have hp := Nat.two_pow_pos t
    refine ⟨(Nat.div_lt_iff_lt_mul hp).2 ?_, .inr ((Nat.le_div_iff_mul_le hp).2 ?_)⟩
    · rw [← pow_add]; exact hlt.trans_le (Nat.pow_le_pow_right Nat.two_pos (by omega))
    · rwa [← pow_add]
  · rw [Nat.sub_eq_zero_of_le h, pow_zero, Nat.div_one]
    exact ⟨hlt.trans_le (Nat.pow_le_pow_right Nat.two_pos (by omega)), .inl rfl⟩

/-- What the rounded pattern of a ratio counts, unless it overflows. -/
theorem f64Units_roundRatio {n d : Nat}
    (h : ratioShift n d * 2 ^ 52 + divNearestEven (n * 2 ^ f64UnitExp) (d * 2 ^ ratioShift n d) < f64Infinity) :
    f64Units (roundRatio n d) =
      divNearestEven (n * 2 ^ f64UnitExp) (d * 2 ^ ratioShift n d) * 2 ^ ratioShift n d := by
  obtain ⟨h1, h2⟩ := ratio_significand n d
  obtain ⟨h3, h4⟩ := divNearestEven_floor (n * 2 ^ f64UnitExp) (d * 2 ^ ratioShift n d)
  unfold roundRatio
  rw [Nat.min_eq_right h.le]
  exact f64Units_parts (by omega) (h2.imp_right (·.trans h3)) h

/-- A ratio that is a significand of 53 bits at some shift is not rounded. -/
theorem roundRatio_exact {n d t sig : Nat} (hd : 0 < d) (lo : 2 ^ 52 ≤ sig) (hi : sig < 2 ^ 53)
    (h : n * 2 ^ f64UnitExp = d * 2 ^ t * sig) :
    roundRatio n d = BitVec.ofNat 64 (min f64Infinity (t * 2 ^ 52 + sig)) := by
  have hp : 0 < d * 2 ^ t := Nat.mul_pos hd (Nat.pow_pos Nat.two_pos)
  have hs : ratioShift n d = t := by
    apply ratioShift_eq hd <;> rw [h, Nat.mul_comm (2 ^ _)]
    · exact Nat.mul_le_mul_left _ lo
    · exact Nat.mul_lt_mul_of_pos_left hi hp
  unfold roundRatio; rw [hs, h, divNearestEven_exact sig hp]

end Sys2Proof.Machine
end

