-- ==== Sys2Proof/Laws/PerInstr.lean ====
section
/-! SUPPORT. The statement made per instruction: the encoder makes no reserved code, and carries the
seed an instruction has. -/

namespace Sys2Proof.Laws.EncodeWellFormed

/-- The word of an instruction spells a command (R56) and its `SEED` is the instruction's own (R55). -/
def Statement (i : Instr) : Prop :=
  (encode i).wellFormed = true ∧ ∀ x, i.seed? = some x → (encode i).seed = x

/-- Only the `CMD` port decides whether a command word is defined. -/
theorem wellFormed_of_cmd {c : Command} {w : BitVec 4} (h : c.cmd = w)
    (hw : ({ cmd := w, seed := 0 } : Command).wellFormed = true) : c.wellFormed = true := by
  subst h; exact hw

theorem constructLcg (seed : U64) : Statement (.constructLcg seed) :=
  ⟨wellFormed_of_cmd (w := 0b0000#4) rfl (by decide), fun _ h => Option.some.inj h⟩

theorem constructRandu (seed : U64) : Statement (.constructRandu seed) :=
  ⟨wellFormed_of_cmd (w := 0b0001#4) rfl (by decide), fun _ h => Option.some.inj h⟩

theorem constructXs32 (seed : U64) : Statement (.constructXs32 seed) :=
  ⟨wellFormed_of_cmd (w := 0b0010#4) rfl (by decide), fun _ h => Option.some.inj h⟩

theorem constructMt (seed : U64) : Statement (.constructMt seed) :=
  ⟨wellFormed_of_cmd (w := 0b0011#4) rfl (by decide), fun _ h => Option.some.inj h⟩

theorem advanceU32 : Statement .advanceU32 :=
  ⟨rfl, fun _ h => nomatch h⟩

theorem advanceF64 : Statement .advanceF64 :=
  ⟨rfl, fun _ h => nomatch h⟩

end Sys2Proof.Laws.EncodeWellFormed
end

