-- ==== Sys2Proof/Tests/Slice0.lean ====
section
/-! SUPPORT. Our own tests, their expected values taken from spec/95_test_vectors.md unless said
otherwise, and for every statement with hypotheses a witness that meets them. -/

namespace Sys2Proof.Tests

open Sys2Proof.Machine Sys2Proof.Safety

/-- This hardware, holding an instance. -/
def holding (g : Generator) : State := { State.reset with gen := g }

/-- This hardware, holding an instance, and a host with something in mind. -/
def hosted (g : Generator) (es : List HostEvent) : State := { holding g with host := es }

/-- An LCG with the default triple. -/
def lcgDefault (st : U64) : Generator := .lcg 1664525#64 1013904223#64 4294967296#64 st

/-! ### Well-formedness: an ill-formed term for each check -/

theorem test_op_check_refuses_reserved_op : (⟨0xC#4, 0⟩ : Command).opDefined = false := by decide
theorem test_var_check_refuses_draw_with_variant : (⟨0x9#4, 0⟩ : Command).varDefined = false := by decide
theorem test_wellFormed_refuses_both :
    (⟨0xC#4, 0⟩ : Command).wellFormed = false ∧ (⟨0x5#4, 0⟩ : Command).wellFormed = false := by decide
theorem test_wellFormed_accepts_neighbours :
    (⟨0x8#4, 0⟩ : Command).wellFormed = true ∧ (⟨0x3#4, 0⟩ : Command).wellFormed = true := by decide
theorem test_line_refuses_wide_seed :
    (AsmLine.construct .lcg (2 ^ 64)).wellFormed = false ∧ (AsmLine.run .randu (2 ^ 64) 1).wellFormed = false := by
  decide

/-! ### Decoding: the words of 95_test_vectors.md 2.1, written out bit by bit -/

/-- Also the witness of DecodeEncodeRoundTrip and DecodingIgnoresSeed, for commands with a seed. -/
theorem test_decode_constructs :
    decode ⟨0b0000#4, 42⟩ = .command (.constructLcg 42) ∧ decode ⟨0b0001#4, 1⟩ = .command (.constructRandu 1) ∧
    decode ⟨0b0010#4, 0⟩ = .command (.constructXs32 0) ∧ decode ⟨0b0011#4, 5⟩ = .command (.constructMt 5) := by
  decide
/-- Also their witness for commands that ignore the seed. -/
theorem test_decode_draws :
    decode ⟨0b0100#4, 0⟩ = .command .advanceU32 ∧ decode ⟨0b1000#4, 0⟩ = .command .advanceF64 ∧
    decode ⟨0b0100#4, 9⟩ = .command .advanceU32 := by decide
/-- Also the witness of ReservedCodesFault, at the edges of the reserved ranges. -/
theorem test_decode_reserved :
    decode ⟨0x5#4, 0⟩ = .reserved ∧ decode ⟨0x9#4, 0⟩ = .reserved ∧ decode ⟨0xC#4, 0⟩ = .reserved ∧
    decode ⟨0xF#4, 0⟩ = .reserved := by decide
theorem test_table_words :
    decodeTableWord 8 0x0 = some (.constructLcg 0) ∧ decodeTableWord 8 0x1 = some (.constructRandu 0) ∧
    decodeTableWord 8 0x2 = some (.constructXs32 0) ∧ decodeTableWord 8 0x3 = some (.constructMt 0) ∧
    decodeTableWord 8 0x4 = some .advanceU32 ∧ decodeTableWord 8 0x8 = some .advanceF64 ∧
    decodeTableWord 8 0xF = none := by decide
/-- `SEED` counts on from `CMD`: log entry 11. -/
theorem test_table_word_with_seed : decodeTableWord 68 0x2A0 = some (.constructLcg 42) := by decide
/-- Also the witness of FieldCodesAndNames. -/
theorem test_names_are_case_sensitive : variantNamed "randu" = some .randu ∧ variantNamed "RANDU" = none := by
  decide

/-! ### One step of each instruction -/

theorem test_reset_tag_is_none : State.reset.gen = .none ∧ State.reset.respU32 = none := by decide
theorem test_step_runs_first_command :
    step (State.reset.withFetchWord 8 0x0) = .next (holding (lcgDefault 0)) := rfl
theorem test_step_draw_first_faults : step (State.reset.withFetchWord 8 0x4) = .fault .unconstructed := rfl
/-- Also the witness of StepRunsDecodedInstruction for a reserved code (2.7, the row of 0xF). -/
theorem test_step_reserved_faults_constructed :
    step (hosted (lcgDefault 42) [.issue ⟨0xF#4, 0⟩]) = .fault .reservedCmd := rfl
/-- 2.2: the whole seed, not reduced. -/
theorem test_constructLcg_keeps_seed_whole :
    exec (.constructLcg 0xFFFFFFFFFFFFFFFF#64) (holding (.xs32 3)) =
      .next (holding (lcgDefault 0xFFFFFFFFFFFFFFFF#64)) := rfl
theorem test_constructRandu_truncates :
    exec (.constructRandu 0x123456789ABCDEF0#64) State.reset = .next (holding (.randu 0x9ABCDEF0#32)) := rfl
theorem test_constructRandu_no_remap :
    exec (.constructRandu 0) State.reset = .next (holding (.randu 0)) := rfl
theorem test_constructXs32_remaps_narrowed_zero :
    exec (.constructXs32 0xFFFFFFFF00000000#64) State.reset = .next (holding (.xs32 1)) := rfl
theorem test_constructXs32_keeps_others :
    exec (.constructXs32 0x0000000100000002#64) State.reset = .next (holding (.xs32 2)) := rfl
theorem test_constructMt_refused : exec (.constructMt 5) State.reset = .refused .mtOutOfScope := rfl
/-- 2.3: the three draws from seed 0, and two wrapping seeds. -/
theorem test_lcg_golden :
    lcgNext 1664525 1013904223 4294967296 0 = 0x3C6EF35F#64 ∧
    lcgNext 1664525 1013904223 4294967296 0x3C6EF35F#64 = 0x47502932#64 ∧
    lcgNext 1664525 1013904223 4294967296 0x47502932#64 = 0xD1CCF6E9#64 ∧
    lcgNext 1664525 1013904223 4294967296 0xFFFFFFFFFFFFFFFF#64 = 0x3C558D52#64 := by decide
/-- 2.3: non-default triples: a wrap that changes the result, and a modulus above `2^32`. -/
theorem test_lcg_general_triples :
    lcgNext 0x10000000000#64 12345 1000000007 0x123456789ABCDEF0#64 = 483843808#64 ∧
    lcgRaw (lcgNext 6364136223846793005#64 1442695040888963407#64 0x8000000000000000#64 1) = 0x43FD007C#32 ∧
    lcgNext 3 7 1 5 = 0 := by decide
/-- 2.4. -/
theorem test_randu_steps :
    randuNext 1 = 0x00010003#32 ∧ randuNext 0x80000000#32 = 0 ∧ randuNext 0xFFFFFFFF#32 = 0x7FFEFFFD#32 ∧
    randuNext 0x638E5555#32 = 0x7FFFFFFF#32 ∧ randuNext 0x9ABCDEF0#32 = 0x2F269CD0#32 := by decide
/-- 2.5. -/
theorem test_xs32_steps :
    xs32Next 1 = 0x00042021#32 ∧ xs32Next 0x00042021#32 = 0x04080601#32 ∧
    xs32Next 0x80000000#32 = 0x80084000#32 ∧ xs32Next 0xFFFFFFFF#32 = 0x0003E01F#32 ∧
    xs32Next 0x5E6CFCE7#32 = 0xFFFFFFFF#32 := by decide
/-- The lines of 2.5, on the row of `0x80000000`. -/
theorem test_xs32_lines :
    xsLine1 0x80000000#32 = 0x80000000#32 ∧ xsLine2 0x80000000#32 = 0x80004000#32 ∧
    xsLine3 0x80004000#32 = 0x80084000#32 := by decide
/-- 2.6: a row of each divisor, where the three differ. -/
theorem test_norm_divisors :
    normF64 0x40000000#32 (u64ToF64 4294967296#64) = 0x3FD0000000000000#64 ∧
    normF64 0x40000000#32 randuDivisor = 0x3FE0000000000000#64 ∧
    normF64 0x40000000#32 xsDivisor = 0x3FD0000000100000#64 := by decide +kernel
/-- 2.6: the extremes. -/
theorem test_norm_extremes :
    normF64 0xFFFFFFFF#32 (u64ToF64 4294967296#64) = 0x3FEFFFFFFFE00000#64 ∧
    normF64 0xFFFFFFFF#32 xsDivisor = 0x3FF0000000000000#64 ∧ normF64 1 xsDivisor = 0x3DF0000000100000#64 ∧
    normF64 0 randuDivisor = 0 := by decide +kernel
/-- 2.6: drawn values, the last one of a modulus `2^63`. -/
theorem test_norm_drawn_values :
    normF64 1013904223#32 (u64ToF64 4294967296#64) = 0x3FCE3779AF800000#64 ∧
    normF64 65539#32 randuDivisor = 0x3F00003000000000#64 ∧ normF64 2398689233#32 xsDivisor = 0x3FE1DF22FA31DF23#64 ∧
    normF64 0x43FD007C#32 (u64ToF64 0x8000000000000000#64) = 0x3DE0FF401F000000#64 := by decide +kernel
/-- P1, step 2: the state is stepped once and only `RESP_F64` has a value. -/
theorem test_advanceF64_lcg :
    ∃ t, exec .advanceF64 (holding (lcgDefault 42)) = .next t ∧ t.gen = lcgDefault 1083814273 ∧
      t.respU32 = none ∧ t.respF64 = some 0x3FD0266C60400000#64 :=
  ⟨_, rfl, by decide +kernel, rfl, by decide +kernel⟩
/-- P5, the corrected program: the state and the raw value. -/
theorem test_advanceU32_lcg :
    ∃ t, exec .advanceU32 (holding (lcgDefault 1)) = .next t ∧ t.gen = lcgDefault 0x3C88596C#64 ∧
      t.respU32 = some 1015568748#32 ∧ t.respF64 = none := ⟨_, rfl, by decide, by decide, rfl⟩

/-! ### Witnesses: encoding and the step -/

theorem witness_AssemblerLines : (AsmLine.construct .mt19937 (2 ^ 64 - 1)).wellFormed = true := by decide
theorem witness_OpcodeMap_fields :
    operationOf (opField ⟨0b1001#4, 0⟩) = .advanceF64 ∧ variantOf (varField ⟨0b1001#4, 0⟩) = .randu := by decide
theorem witness_StepRunsDecodedInstruction :
    (hosted (.randu 7) [.issue ⟨0x2#4, 3⟩]).cfg.m ≠ 0 ∧ decode ⟨0x2#4, 3⟩ = .command (.constructXs32 3) := by decide
theorem witness_TableWordRunsNext : State.reset.cfg.m ≠ 0 ∧ decodeTableWord 8 0x2 = some (.constructXs32 0) := by
  decide
theorem witness_HardwareResetStep :
    step (hosted (.xs32 9) [.reset, .readU32]) = .next (hosted .none [.readU32]) := rfl
theorem witness_IdleBlockHoldsState : (holding (.xs32 9)).cfg.m ≠ 0 ∧ (holding (.xs32 9)).host = [] := by decide
theorem witness_OverlapRefused :
    (hosted (.xs32 9) [.overlap ⟨0x4#4, 0⟩ ⟨0x8#4, 0⟩]).cfg.m ≠ 0 := by decide
theorem witness_BadConfigRefused :
    (State.resetWith ⟨1, 1, 0⟩).cfg.m = 0 ∧ (holding (.lcg 1 1 0 5)).gen = .lcg 1 1 0 5 := by decide
theorem witness_PortReads_value :
    step { hosted (.xs32 1) [.readU32] with respU32 := some 1 } = .next { holding (.xs32 1) with respU32 := some 1 } ∧
    step { hosted (.xs32 1) [.readF64] with respF64 := some 1 } = .next { holding (.xs32 1) with respF64 := some 1 } :=
  ⟨rfl, rfl⟩
theorem witness_PortReads_none :
    step (hosted (.xs32 1) [.readU32]) = .refused .portWithoutValue ∧
    step (hosted (.xs32 1) [.readF64]) = .refused .portWithoutValue := ⟨rfl, rfl⟩
theorem witness_ResponsePortsAfterCommand :
    constructs (.constructXs32 0) = true ∧ exec (.constructXs32 0) State.reset = .next (holding (.xs32 1)) ∧
    exec .advanceU32 (holding (.randu 0)) = .next { holding (.randu 0) with respU32 := some 0 } ∧
    ∃ t, exec .advanceF64 (holding (.randu 0)) = .next t := ⟨rfl, rfl, rfl, _, rfl⟩
theorem witness_OutcomeOfEveryCommand :
    (∀ a k st, (holding (lcgDefault 0)).gen ≠ .lcg a k 0 st) ∧ (∀ a k st, State.reset.gen ≠ .lcg a k 0 st) := by
  refine ⟨fun a k st h => ?_, fun a k st h => nomatch h⟩
  injection h with _ _ hm
  exact absurd hm (by decide)
theorem witness_ResetLeavesFault :
    step (hosted .none [.issue ⟨0x4#4, 0⟩, .reset]) = .fault .unconstructed ∧
    leaveFault (hosted .none [.issue ⟨0x4#4, 0⟩, .reset]) = some State.reset := ⟨rfl, rfl⟩

/-! ### Witnesses: construction and raw draws -/

theorem witness_ConstructLcgResult :
    State.reset.cfg = State.reset.cfg ∧ exec (.constructLcg 7) State.reset = .next (holding (lcgDefault 7)) :=
  ⟨rfl, rfl⟩
theorem witness_ConstructXs32Result :
    (0x100000000#64).toNat % 2 ^ 32 = 0 ∧ (0x100000001#64).toNat % 2 ^ 32 ≠ 0 := by decide
theorem witness_ConstructionIsDeterministic :
    constructs (.constructRandu 1) = true ∧
    exec (.constructRandu 1) State.reset = .next (holding (.randu 1)) ∧
    exec .advanceU32 (holding (.randu 1)) = .next { holding (.randu 65539) with respU32 := some 65539 } ∧
    exec (.constructRandu 1) { holding (.randu 65539) with respU32 := some 65539 } = .next (holding (.randu 1)) :=
  ⟨rfl, rfl, rfl, rfl⟩
theorem witness_AdvanceU32Lcg_powerOfTwo :
    (holding (.lcg 3 7 1 5)).gen = .lcg 3 7 1 5 ∧ (1#64) ≠ 0 ∧ (1#64).toNat = 2 ^ 0 ∧
    (0x8000000000000000#64).toNat = 2 ^ 63 := by decide
theorem witness_AdvanceU32Lcg_noWrap :
    (48271#64).toNat * (1#64).toNat + (0#64).toNat < 2 ^ 64 ∧ (2147483647#64) ≠ 0 := by decide
theorem witness_AdvanceU32LcgDefault :
    (holding (lcgDefault 0xFFFFFFFFFFFFFFFF#64)).gen =
      .lcg 1664525#64 1013904223#64 4294967296#64 0xFFFFFFFFFFFFFFFF#64 := rfl
theorem witness_AdvanceU32Randu : (holding (.randu 0xFFFFFFFF#32)).gen = .randu 0xFFFFFFFF#32 := rfl
theorem witness_RanduCornerCases :
    (30 : Nat) < 31 ∧ 2 ^ 30 ∣ (0x40000000#32).toNat ∧ ¬ 2 ^ 31 ∣ (0x40000000#32).toNat ∧
    2 ^ 31 ∣ (0x80000000#32).toNat := by decide
theorem witness_AdvanceU32Xs32 :
    (holding (.xs32 1)).gen = .xs32 1 ∧ (0x00002001#32 : U32) = 1 ^^^ (1 <<< 13) ∧
    (0x00002001#32 : U32) = 0x00002001#32 ^^^ (0x00002001#32 >>> 17) ∧
    (0x00042021#32 : U32) = 0x00002001#32 ^^^ (0x00002001#32 <<< 5) := by decide
theorem witness_Xs32NeverReachesZero :
    xs32Next 1 = xs32Next 1 ∧ (1#32) ≠ 0 ∧ draws .advanceU32 = true ∧ draws .advanceF64 = true ∧
    (∃ t, exec .advanceU32 (holding (.xs32 1)) = .next t) ∧ ∃ t, exec .advanceF64 (holding (.xs32 1)) = .next t :=
  ⟨rfl, by decide, rfl, rfl, ⟨_, rfl⟩, ⟨_, rfl⟩⟩
theorem witness_DrawUnconstructedFaults : State.reset.gen = .none ∧ draws .advanceF64 = true := by decide
theorem witness_DrawFrame_and_BoundsAfterDraw :
    (∃ t, exec .advanceU32 (holding (lcgDefault 5)) = .next t ∧ ∃ st, t.gen = lcgDefault st) ∧
    ∃ t, exec .advanceU32 (holding (.randu 0x80000001#32)) = .next t ∧ t.gen = .randu 0x00010003#32 :=
  ⟨⟨_, rfl, _, rfl⟩, _, rfl, rfl⟩
theorem witness_RanduZeroHazard :
    (0x80000000#64).toNat % 2 ^ 31 = 0 ∧
    exec (.constructRandu 0x80000000#64) State.reset = .next (holding (.randu 0x80000000#32)) ∧
    (holding (.randu 0)).gen = .randu 0 ∧ 2 ^ 3 ∣ (24#32).toNat ∧
    ∃ t, exec .advanceF64 (holding (.randu 24)) = .next t := ⟨by decide, rfl, rfl, by decide, _, rfl⟩
theorem witness_SeedAliasing :
    (0x100000005#64).toNat % 2 ^ 32 = (5#64).toNat % 2 ^ 32 ∧
    (0x80000001#64).toNat % 2 ^ 31 = (1#64).toNat % 2 ^ 31 ∧
    ((0x100000000#64).toNat % 2 ^ 32 = 0 ∧ (1#64).toNat % 2 ^ 32 = 1) ∧
    exec (.constructLcg 5) State.reset = .next (holding (lcgDefault 5)) := ⟨by decide, by decide, by decide, rfl⟩

/-! ### Witnesses: normalized draws -/

theorem witness_AdvanceF64Result :
    (holding (.lcg 3 7 1 5)).gen = .lcg 3 7 1 5 ∧ (1#64) ≠ 0 ∧ (holding (.randu 1)).gen = .randu 1 ∧
    (holding (.xs32 1)).gen = .xs32 1 ∧ State.reset.gen = .none := by decide
theorem witness_DrawsShareOneSequence :
    exec .advanceU32 State.reset = .fault .unconstructed ∧
    exec .advanceU32 (holding (.lcg 1 1 0 5)) = .refused .badConfig ∧
    exec .advanceU32 (holding (.xs32 1)) =
      .next { holding (.xs32 0x00042021#32) with respU32 := some 0x00042021#32 } := ⟨rfl, rfl, rfl⟩
theorem witness_IntegerConversions :
    (2 ^ 53 - 1 : Nat) ≤ 2 ^ 53 ∧ (0xFFFFFFFFFFFFF800#64).toNat = (2 ^ 53 - 1) * 2 ^ 11 := by decide
/-- The largest finite number over 1.0, the bound of the premise, and a quotient that is not exact. -/
theorem witness_DivisionIsCorrectlyRounded :
    (fdivDefined 0x7FEFFFFFFFFFFFFF#64 0x3FF0000000000000#64 = true ∧
      f64Units 0x7FEFFFFFFFFFFFFF#64 ≤ f64Units 0x3FF0000000000000#64 * ((2 ^ 53 - 1) * 2 ^ 971)) ∧
    (fdivDefined 0x3FF0000000000000#64 0x41EFFFFFFFE00000#64 = true ∧
      f64Units 0x3FF0000000000000#64 ≤ f64Units 0x41EFFFFFFFE00000#64 * ((2 ^ 53 - 1) * 2 ^ 971)) := by
  decide +kernel
/-- A power of two for the divisor, and quotients at both ends of the normal range. -/
theorem witness_DivisionLaws :
    fdivDefined 0x0010000000000000#64 0x3FF0000000000000#64 = true ∧
    f64Units 0x3FF0000000000000#64 = 2 ^ 1074 ∧
    f64Units 0x3FF0000000000000#64 ≤ f64Units 0x0010000000000000#64 * 2 ^ 1022 ∧
    f64Units 0x7FEFFFFFFFFFFFFF#64 ≤ f64Units 0x3FF0000000000000#64 * ((2 ^ 53 - 1) * 2 ^ 971) ∧
    fdivDefined 0 0x3FF0000000000000#64 = true ∧ f64Units 0 ≤ f64Units 0x0010000000000000#64 := by decide +kernel
theorem witness_PowerOfTwoDivisorExact :
    (63 : Nat) ≤ 63 ∧ 2 ^ 31 ≤ (0xFFFFFFFF#32).toNat ∧ (0xFFFFFFFF#32).toNat < 2 ^ 32 := by decide
theorem witness_Xs32ResultRange : (0xFFFFFFFE#32) ≠ 0 ∧ (0xFFFFFFFE#32) ≠ 0xFFFFFFFF#32 := by decide
/-- S5: the state that steps to `0xFFFFFFFF` and returns 1.0, and one that does not. -/
theorem witness_Xs32ResultRange_exec :
    (∃ t, exec .advanceF64 (holding (.xs32 0x5E6CFCE7#32)) = .next t ∧ t.gen = .xs32 0xFFFFFFFF#32 ∧
      t.respF64 = some 0x3FF0000000000000#64) ∧
    ∃ t, exec .advanceF64 (holding (.xs32 1)) = .next t ∧ t.gen ≠ .xs32 0xFFFFFFFF#32 :=
  ⟨⟨_, rfl, by decide, by decide +kernel⟩, _, rfl, by decide⟩
theorem witness_LcgAndRanduResultRange :
    (0x7FFFFFFF#32).toNat < 2 ^ 31 ∧ (0xFFFFFFFF#32).toNat < (4294967296#64).toNat ∧ (0#32).toNat < (1#64).toNat := by
  decide
/-- 2.3, 2.4: the LCG and RANDU states that step to the largest raw values, and a small modulus. -/
theorem witness_LcgAndRanduResultRange_exec :
    (∃ t, exec .advanceF64 (holding (.randu 0x638E5555#32)) = .next t ∧
      t.respF64 = some 0x3FEFFFFFFFC00000#64) ∧
    (∃ t, exec .advanceF64 (holding (lcgDefault 0x26F5B720#64)) = .next t ∧
      t.respF64 = some 0x3FEFFFFFFFE00000#64) ∧
    ∃ t, exec .advanceF64 (holding (.lcg 3 7 1 5)) = .next t ∧ t.respF64 = some 0 :=
  ⟨⟨_, rfl, by decide +kernel⟩, ⟨_, rfl, by decide +kernel⟩, _, rfl, by decide +kernel⟩
theorem witness_NoSpecialValues :
    (∃ d, drawRaw (.randu 1) = .next d) ∧ ∃ t, exec .advanceF64 (holding (.lcg 3 7 1 5)) = .next t :=
  ⟨⟨_, rfl⟩, _, rfl⟩
theorem witness_NormStrictlyMonotone : xsDivisor ∈ [u64ToF64 4294967296#64, randuDivisor, xsDivisor] ∧
    (0#32).toNat < (1#32).toNat := ⟨by simp, by decide⟩

/-! ### Witnesses: whole-machine rules -/

theorem witness_StepKeepsInvariant :
    Inv (hosted (.xs32 1) [.issue ⟨0x4#4, 0⟩]) ∧
    ∃ t, step (hosted (.xs32 1) [.issue ⟨0x4#4, 0⟩]) = .next t := ⟨by decide, _, rfl⟩
theorem witness_StepKeepsResponseMatching :
    Inv { hosted (.randu 3) [.readU32] with respU32 := some 3 } ∧
    ResponseMatches { hosted (.randu 3) [.readU32] with respU32 := some 3 } ∧
    ∃ t, step { hosted (.randu 3) [.readU32] with respU32 := some 3 } = .next t := by
  exact ⟨by decide, ⟨fun _ => rfl, fun h => absurd h (by decide), fun _ => rfl⟩, _, rfl⟩
/-- The clause on `RESP_F64`, at RANDU's first draw from seed 1. -/
theorem witness_ResponseMatches_f64 :
    ResponseMatches { holding (.randu 65539) with respF64 := some 0x3F00003000000000#64 } := by decide +kernel
theorem witness_DutifulHostNeverStops :
    Inv (hosted .none [.issue ⟨0x2#4, 0⟩, .issue ⟨0x4#4, 0⟩, .readU32, .issue ⟨0x8#4, 0⟩, .readF64, .reset]) ∧
    HostDutiful (hosted .none [.issue ⟨0x2#4, 0⟩, .issue ⟨0x4#4, 0⟩, .readU32, .issue ⟨0x8#4, 0⟩, .readF64, .reset]) := by
  decide
/-- The nearest hosts that do not do their duty. -/
theorem test_undutiful_hosts :
    ¬ HostDutiful (hosted .none [.issue ⟨0x4#4, 0⟩]) ∧ ¬ HostDutiful (hosted (.xs32 1) [.issue ⟨0x3#4, 0⟩]) ∧
    ¬ HostDutiful (hosted (.xs32 1) [.issue ⟨0x4#4, 0⟩, .readF64]) ∧
    ¬ HostDutiful (hosted (.xs32 1) [.reset, .issue ⟨0x8#4, 0⟩]) := by decide
theorem witness_StepFrame_and_LcgConstantsFixed :
    step (hosted .none [.issue ⟨0x0#4, 7⟩]) = .next (holding (lcgDefault 7)) ∧
    ∃ t, step (hosted (lcgDefault 7) [.issue ⟨0x4#4, 0⟩]) = .next t ∧ ∃ st, t.gen = lcgDefault st :=
  ⟨rfl, _, rfl, _, rfl⟩
theorem witness_TagWrittenOnlyByConstructAndReset :
    (step (hosted (.xs32 1) [.reset]) = .next (holding .none) ∧ tagOf .none ≠ tagOf (.xs32 1)) ∧
    (step (hosted (.xs32 1) [.issue ⟨0x1#4, 2⟩]) = .next (holding (.randu 2)) ∧ tagOf (.randu 2) ≠ tagOf (.xs32 1)) :=
  ⟨⟨rfl, by decide⟩, rfl, by decide⟩
theorem witness_ObservationDependsOnCommandsOnly :
    (holding (.xs32 9)).cfg = State.reset.cfg ∧ decode ⟨0x1#4, 1⟩ = .command (.constructRandu 1) ∧
    constructs (.constructRandu 1) = true ∧
    observe [⟨0x1#4, 1⟩, ⟨0x4#4, 0⟩] State.reset = [.done, .doneU32 65539] := by decide
theorem witness_DriverIsDutiful :
    driverErrors ⟨true, "lcg", some 42, some 5, true⟩ = [] ∧
    driverErrors ⟨true, "LCG", some 42, none, false⟩ =
      [.unknownGeneratorName, .outputUnopenable, .seedOrCountUnparsable] ∧
    variantNamed "lcg" ≠ some .mt19937 ∧
    (driverEvents ⟨true, "lcg", some 42, some 5, true⟩).length = 6 := by decide
/-- One block faults, one is refused, and the block between them constructs all the same (2.7). -/
theorem test_blocks_stop_alone :
    runBlocks [0, 2, 1] [.live (hosted .none [.issue ⟨0x4#4, 0⟩]), .live (hosted .none [.issue ⟨0x1#4, 2⟩]),
        .live (hosted .none [.issue ⟨0x3#4, 5⟩])] =
      [.faulted (hosted .none [.issue ⟨0x4#4, 0⟩]) .unconstructed, .live (holding (.randu 2)),
        .refused .mtOutOfScope] := by decide
theorem witness_BlockStopsByItself :
    step (hosted .none [.issue ⟨0x1#4, 2⟩]) = .next (holding (.randu 2)) ∧
    step (hosted .none [.issue ⟨0xF#4, 0⟩, .reset]) = .fault .reservedCmd ∧
    step (hosted .none [.issue ⟨0x3#4, 5⟩]) = .refused .mtOutOfScope ∧
    stepBlock (.faulted (hosted .none [.issue ⟨0xF#4, 0⟩, .reset]) .reservedCmd) = .live State.reset ∧
    (hosted .none [.issue ⟨0xF#4, 0⟩, .issue ⟨0x0#4, 1⟩]).host[1]? ≠ some .reset :=
  ⟨rfl, rfl, rfl, rfl, by decide⟩
theorem witness_BlocksAreIndependent : (0 : Nat) ≠ 1 := by decide

end Sys2Proof.Tests
end

section
/-! What every step leaves of the configuration and of the host's queue. -/

namespace Sys2Proof.Machine

variable {s t : State}

/-- An instruction writes the tagged state and the response ports only. -/
theorem exec_keeps_cfg_and_host {i : Instr} (h : exec i s = .next t) :
    t.cfg = s.cfg ∧ t.host = s.host := by
  obtain ⟨x, -, rfl⟩ | ⟨x, -, rfl⟩ | ⟨x, -, rfl⟩ | ⟨-, d, -, rfl⟩ | ⟨-, d, -, rfl⟩ := exec_next h
  case inl | inr.inl | inr.inr.inl => exact ⟨install_cfg _ s, install_host _ s⟩
  · simp only [respondU32_cfg, respondU32_host, setGen_cfg, setGen_host, and_self]
  · simp only [respondF64_cfg, respondF64_host, setGen_cfg, setGen_host, and_self]

/-- No event of the host writes the configuration or what the host does after it. -/
theorem serveEvent_keeps_cfg_and_host {e : HostEvent} (h : serveEvent e s = .next t) :
    t.cfg = s.cfg ∧ t.host = s.host := by
  obtain ⟨c, i, -, -, hx⟩ | ⟨-, -, rfl⟩ | ⟨-, -, rfl⟩ | ⟨-, rfl⟩ := serveEvent_next h
  · exact exec_keeps_cfg_and_host hx
  · exact ⟨rfl, rfl⟩
  · exact ⟨rfl, rfl⟩
  · exact ⟨hardwareReset_cfg s, hardwareReset_host s⟩

/-- Settles O50: a host with nothing to do leaves the state, whose queue has no tail to lose; otherwise
the event is served on the state that holds the rest of the queue, and serving it keeps both fields. -/
theorem stepFrame : Obligations.StepFrame := by
  intro s t h
  obtain ⟨-, ⟨hh, rfl⟩ | ⟨e, rest, hh, he⟩⟩ := step_next h
  · simp only [hh, List.tail_nil, and_self]
  · simpa only [hh, List.tail_cons, withHost_cfg, withHost_host] using serveEvent_keeps_cfg_and_host he

end Sys2Proof.Machine
end

section
/-! What the decoder answers a command for: the word is the one the encoder makes (R54), and the seed of
a CONSTRUCT stands on `SEED` (R55). -/

namespace Sys2Proof

open Sys2Proof.Safety

variable {c : Command} {i : Instr}

/-- The code of each defined operation (R52). -/
theorem code_of_operationOf (op : BitVec 2) :
    (operationOf op = .construct → op = 0b00#2) ∧ (operationOf op = .advanceU32 → op = 0b01#2) ∧
    (operationOf op = .advanceF64 → op = 0b10#2) := by
  revert op; decide

/-- The code of the variant a field names (R53). -/
theorem code_of_variantOf {var : BitVec 2} {v : Variant} (h : variantOf var = v) : var = variantCode v := by
  rw [← h, variantCode_variantOf]

/-- A word is put together from the codes of its two fields. -/
theorem cmd_eq_of_fields {op var : BitVec 2} (hop : opField c = op) (hvar : varField c = var) :
    c.cmd = cmdWord op var := by
  rw [← hop, ← hvar, cmdWord_fields]

/-- A command decodes to an instruction only from the word that spells it, and with the instruction's
seed on `SEED`. -/
theorem decode_command (h : decode c = .command i) :
    c.cmd = (encode i).cmd ∧ ∀ x, i.seed? = some x → c.seed = x := by
  obtain ⟨hconstruct, hu32, hf64⟩ := code_of_operationOf (opField c)
  unfold decode at h
  split at h <;> cases h <;> rename_i hop hvar
  case h_1 | h_2 | h_3 | h_4 =>
    exact ⟨cmd_eq_of_fields (hconstruct hop) (code_of_variantOf hvar), fun x hx => Option.some.inj hx⟩
  case h_5 => exact ⟨cmd_eq_of_fields (hu32 hop) (code_of_variantOf hvar), fun x hx => nomatch hx⟩
  case h_9 => exact ⟨cmd_eq_of_fields (hf64 hop) (code_of_variantOf hvar), fun x hx => nomatch hx⟩

/-- CONSTRUCT.LCG is the command `CMD = 0x0` with the seed on `SEED`. -/
theorem decode_constructLcg {x : U64} (h : decode c = .command (.constructLcg x)) :
    c = { cmd := 0x0#4, seed := x } := by
  obtain ⟨hcmd, hseed⟩ := decode_command h
  obtain ⟨cmd, seed⟩ := c
  exact congrArg₂ Command.mk hcmd (hseed x rfl)

/-- The CONSTRUCT commands have `OP = 00` (R52). -/
theorem opField_of_decode_construct (h : decode c = .command i) (hi : constructs i = true) :
    opField c = 0b00#2 := by
  obtain ⟨hcmd, -⟩ := decode_command h
  obtain ⟨cmd, seed⟩ := c
  cases i with
  | constructLcg x | constructRandu x | constructXs32 x =>
    rw [show cmd = _ from hcmd]; exact opField_cmdWord _ _ seed
  | constructMt x | advanceU32 | advanceF64 => cases hi

end Sys2Proof
end

section
/-! The bounds of the three recurrences (10_state.md R27 to R29). -/

namespace Sys2Proof.Machine

/-- The remainder is below the modulus (R27). -/
theorem lcgNext_lt (a c : U64) {m : U64} (st : U64) (hm : m ≠ 0) :
    (lcgNext a c m st).toNat < m.toNat := by
  rw [lcgNext, BitVec.toNat_umod]
  exact Nat.mod_lt _ (Nat.pos_of_ne_zero fun h => hm (BitVec.eq_of_toNat_eq h))

/-- RANDU's state is a remainder modulo `2^31` (R28). -/
theorem randuNext_lt (st : U32) : (randuNext st).toNat < 2 ^ 31 := by
  simp only [randuNext, randuMod, BitVec.toNat_ofNat]
  omega

/-- A word that a left shift leaves as it is has no lowest set bit. -/
theorem eq_zero_of_eq_shl32 {x : U32} {k : Nat} (hk : 0 < k) (h : x = shl32 x k) : x = 0 := by
  have low : ∀ j, x.getLsbD j = false := by
    intro j
    induction j using Nat.strong_induction_on with
    | h j ih =>
      rw [h, shl32, BitVec.getLsbD_shiftLeft]
      rcases Nat.lt_or_ge j k with hj | hj
      · simp [hj]
      · simp [ih (j - k) (by omega)]
  exact BitVec.eq_of_getLsbD_eq fun j _ => by simp [low j]

/-- A word that a right shift leaves as it is is not above its half. -/
theorem eq_zero_of_eq_shr32 {x : U32} {k : Nat} (hk : 0 < k) (h : x = shr32 x k) : x = 0 := by
  have hdiv : x.toNat = x.toNat / 2 ^ k := by
    rw [← Nat.shiftRight_eq_div_pow, ← BitVec.toNat_ushiftRight]
    exact congrArg BitVec.toNat h
  have hpos : ¬ 0 < x.toNat := fun hx =>
    (Nat.div_lt_self hx (Nat.one_lt_two_pow hk.ne')).ne' hdiv
  exact BitVec.eq_of_toNat_eq (Nat.eq_zero_of_not_pos hpos)

/-- Each line of the Xorshift32 recurrence gives 0 only for 0, so the recurrence does too (R29). -/
theorem xs32Next_ne_zero {x : U32} (hx : x ≠ 0) : xs32Next x ≠ 0 := fun h =>
  have h3 : xsLine2 (xsLine1 x) = 0 := eq_zero_of_eq_shl32 (by decide) (BitVec.xor_eq_zero_iff.1 h)
  have h2 : xsLine1 x = 0 := eq_zero_of_eq_shr32 (by decide) (BitVec.xor_eq_zero_iff.1 h3)
  hx (eq_zero_of_eq_shl32 (by decide) (BitVec.xor_eq_zero_iff.1 h2))

/-- The seed of an Xorshift32 is never 0 (R73). -/
theorem seedNonZero_ne_zero (seed : U64) : seedNonZero seed ≠ 0 := by
  unfold seedNonZero
  split
  · decide
  · assumption

end Sys2Proof.Machine
end

section
/-! What a step of the recurrence says about the registers it leaves, and what the two draws share. -/

namespace Sys2Proof.Machine

open Sys2Proof.Safety

variable {s t : State} {g : Generator} {d : Draw}

/-- A draw steps the registers and keeps the tag (R90). -/
theorem drawRaw_keeps_tag (h : drawRaw g = .next d) : tagOf d.next = tagOf g := by
  obtain ⟨a, c, m, st, rfl, -, rfl⟩ | ⟨st, rfl, rfl⟩ | ⟨st, rfl, rfl⟩ := drawRaw_next h <;> rfl

/-- A draw that leaves an LCG was made on an LCG with the same constants (R22). -/
theorem drawRaw_keeps_constants {a c m st : U64} (h : drawRaw g = .next d) (hd : d.next = .lcg a c m st) :
    ∃ st₀, g = .lcg a c m st₀ := by
  obtain ⟨a, c, m, st₀, rfl, -, rfl⟩ | ⟨st₀, rfl, rfl⟩ | ⟨st₀, rfl, rfl⟩ := drawRaw_next h <;> cases hd
  exact ⟨st₀, rfl⟩

/-- The raw value of a draw can be read off the registers it left (R34). -/
theorem drawRaw_rawOf (h : drawRaw g = .next d) : rawOf d.next = some d.raw := by
  obtain ⟨a, c, m, st, rfl, -, rfl⟩ | ⟨st, rfl, rfl⟩ | ⟨st, rfl, rfl⟩ := drawRaw_next h <;> rfl

/-- The divisor of a draw is that of the variant it left. -/
theorem drawRaw_divisorOf (h : drawRaw g = .next d) : divisorOf d.next = some d.divisor := by
  obtain ⟨a, c, m, st, rfl, -, rfl⟩ | ⟨st, rfl, rfl⟩ | ⟨st, rfl, rfl⟩ := drawRaw_next h <;> rfl

/-- After a draw an LCG's state is below its modulus, whatever it was before (R27). -/
theorem drawRaw_lcg_lt {a c m st : U64} (h : drawRaw g = .next d) (hd : d.next = .lcg a c m st) :
    st.toNat < m.toNat := by
  obtain ⟨a, c, m, st₀, rfl, hm, rfl⟩ | ⟨st₀, rfl, rfl⟩ | ⟨st₀, rfl, rfl⟩ := drawRaw_next h <;> cases hd
  exact lcgNext_lt a c st₀ hm

/-- After a draw RANDU's state is below `2^31`, whatever it was before (R28). -/
theorem drawRaw_randu_lt {st : U32} (h : drawRaw g = .next d) (hd : d.next = .randu st) :
    st.toNat < 2 ^ 31 := by
  obtain ⟨a, c, m, st₀, rfl, hm, rfl⟩ | ⟨st₀, rfl, rfl⟩ | ⟨st₀, rfl, rfl⟩ := drawRaw_next h <;> cases hd
  exact randuNext_lt st₀

/-- A draw from legal registers leaves registers within the bounds of the recurrence. -/
theorem drawRaw_genBounded (hg : genOk g = true) (h : drawRaw g = .next d) : genBounded d.next = true := by
  obtain ⟨a, c, m, st, rfl, hm, rfl⟩ | ⟨st, rfl, rfl⟩ | ⟨st, rfl, rfl⟩ := drawRaw_next h
  · exact decide_eq_true (lcgNext_lt a c st hm)
  · exact decide_eq_true (randuNext_lt st)
  · exact bne_iff_ne.2 (xs32Next_ne_zero (bne_iff_ne.1 hg))

/-- Registers within the bounds of the recurrence are legal. -/
theorem genOk_of_genBounded (h : genBounded g = true) : genOk g = true := by
  cases g with
  | none => cases h
  | lcg a c m st =>
    have hlt : st.toNat < m.toNat := of_decide_eq_true h
    refine bne_iff_ne.2 ?_
    rintro rfl
    exact Nat.not_lt_zero _ hlt
  | randu st => rfl
  | xs32 st => exact h

/-- Either draw leaves the registers that the step of the recurrence gives. -/
theorem exec_draw_gen {i : Instr} (hi : draws i = true) (h : exec i s = .next t) :
    ∃ d, drawRaw s.gen = .next d ∧ t.gen = d.next := by
  cases i with
  | constructLcg x | constructRandu x | constructXs32 x | constructMt x => cases hi
  | advanceU32 | advanceF64 =>
    obtain ⟨d, hd, rfl⟩ := drawThen_next h
    exact ⟨d, hd, rfl⟩

/-- With `TAG = NONE` a draw faults, whatever it would answer. -/
theorem drawThen_none {answer : Draw → State → State} (h : s.gen = .none) :
    drawThen answer s = .fault .unconstructed := by
  simp only [drawThen, h, drawRaw]

/-- Both draws fault with `TAG = NONE` (R89, R109). -/
theorem exec_draw_none {i : Instr} (hi : draws i = true) (h : s.gen = .none) :
    exec i s = .fault .unconstructed := by
  cases i with
  | constructLcg x | constructRandu x | constructXs32 x | constructMt x => cases hi
  | advanceU32 | advanceF64 => exact drawThen_none h

end Sys2Proof.Machine
end

section
/-! The three things a step can be, for the rules about the whole machine. -/

namespace Sys2Proof.Machine

open Sys2Proof.Safety

variable {s t : State}

/-- A step that completes leaves the block as it is (no event, or a read of a port), resets it, or runs
the instruction that the host's command decodes to. -/
theorem step_next_cases (h : step s = .next t) :
    t = withHost s.host.tail s ∨
    (s.host.head? = some .reset ∧ t = hardwareReset (withHost s.host.tail s)) ∨
    ∃ c i rest, s.host = .issue c :: rest ∧ decode c = .command i ∧ exec i (withHost rest s) = .next t := by
  obtain ⟨-, ⟨hh, rfl⟩ | ⟨e, rest, hh, he⟩⟩ := step_next h
  · left
    rw [hh, List.tail_nil, ← hh]
    rfl
  · rw [hh]
    obtain ⟨c, i, rfl, hd, hx⟩ | ⟨-, -, rfl⟩ | ⟨-, -, rfl⟩ | ⟨rfl, rfl⟩ := serveEvent_next he
    · exact .inr (.inr ⟨c, i, rest, rfl, hd, hx⟩)
    · exact .inl rfl
    · exact .inl rfl
    · exact .inr (.inl ⟨rfl, rfl⟩)

end Sys2Proof.Machine
end

section
/-! The two invariants of 10_state.md: the state invariant (R22, R29, R58), and each response equal to
the draw that left the registers (R34). -/

namespace Sys2Proof.Machine

open Sys2Proof.Safety

variable {s t : State} {d : Draw}

/-- A CONSTRUCT installs legal registers and drives no port. -/
theorem inv_install {g : Generator} (hm : s.cfg.m ≠ 0) (hg : genOk g = true) : Inv (install g s) :=
  ⟨hm, hg, .inl rfl⟩

/-- Every instruction keeps the state invariant: a CONSTRUCT installs legal registers, and a draw leaves
registers within the bounds and a value on one port. -/
theorem exec_keeps_inv {i : Instr} (hs : Inv s) (h : exec i s = .next t) : Inv t := by
  obtain ⟨hm, hg, -⟩ := hs
  obtain ⟨x, -, rfl⟩ | ⟨x, -, rfl⟩ | ⟨x, -, rfl⟩ | ⟨-, d, hd, rfl⟩ | ⟨-, d, hd, rfl⟩ := exec_next h
  · exact inv_install hm (bne_iff_ne.2 hm)
  · exact inv_install hm rfl
  · exact inv_install hm (bne_iff_ne.2 (seedNonZero_ne_zero x))
  · exact ⟨hm, genOk_of_genBounded (drawRaw_genBounded hg hd), .inr rfl⟩
  · exact ⟨hm, genOk_of_genBounded (drawRaw_genBounded hg hd), .inl rfl⟩

/-- Settles O47: the invariant does not look at the host's queue, a reset block holds no register, and
every instruction keeps it. -/
theorem stepKeepsInvariant : Obligations.StepKeepsInvariant := by
  intro s t hs h
  obtain rfl | ⟨-, rfl⟩ | ⟨c, i, rest, -, -, hx⟩ := step_next_cases h
  · exact hs
  · obtain ⟨hm, -, -⟩ := hs
    exact ⟨hm, rfl, .inl rfl⟩
  · exact exec_keeps_inv (s := withHost rest s) hs hx

/-- With no value on either port there is nothing to match. -/
theorem responseMatches_of_no_response (hu : s.respU32 = none) (hf : s.respF64 = none) :
    ResponseMatches s := by
  simp [ResponseMatches, hu, hf]

/-- ADVANCE_U32 answers the raw value that its registers hold. -/
theorem responseMatches_respondU32 (hg : genOk s.gen = true) (hd : drawRaw s.gen = .next d) :
    ResponseMatches (respondU32 d.raw (setGen d.next s)) :=
  ⟨fun _ => drawRaw_rawOf hd, nofun, fun _ => drawRaw_genBounded hg hd⟩

/-- ADVANCE_F64 answers the normalization of the raw value that its registers hold. -/
theorem responseMatches_respondF64 (hg : genOk s.gen = true) (hd : drawRaw s.gen = .next d) :
    ResponseMatches (respondF64 (normF64 d.raw d.divisor) (setGen d.next s)) := by
  refine ⟨nofun, fun _ => ?_, fun _ => drawRaw_genBounded hg hd⟩
  simp only [respondF64_gen, setGen_gen, respondF64_respF64, drawRaw_rawOf hd, drawRaw_divisorOf hd,
    Option.bind_some, Option.map_some]

/-- From a good state every instruction leaves matching responses, whatever stood on the ports
before. -/
theorem exec_responseMatches {i : Instr} (hs : Inv s) (h : exec i s = .next t) : ResponseMatches t := by
  obtain ⟨-, hg, -⟩ := hs
  obtain ⟨x, -, rfl⟩ | ⟨x, -, rfl⟩ | ⟨x, -, rfl⟩ | ⟨-, d, hd, rfl⟩ | ⟨-, d, hd, rfl⟩ := exec_next h
  case inl | inr.inl | inr.inr.inl =>
    exact responseMatches_of_no_response (install_respU32 _ s) (install_respF64 _ s)
  · exact responseMatches_respondU32 hg hd
  · exact responseMatches_respondF64 hg hd

/-- Settles O48: the responses do not depend on the host's queue, reset leaves none, and every
instruction leaves matching ones. -/
theorem stepKeepsResponseMatching : Obligations.StepKeepsResponseMatching := by
  intro s t hinv hs h
  obtain rfl | ⟨-, rfl⟩ | ⟨c, i, rest, -, -, hx⟩ := step_next_cases h
  · exact hs
  · exact responseMatches_of_no_response rfl rfl
  · exact exec_responseMatches (s := withHost rest s) hinv hx

/-- Settles O46: reset leaves no register to be illegal and no response to match. -/
theorem resetMeetsInvariants : Obligations.ResetMeetsInvariants :=
  ⟨⟨by decide, rfl, .inl rfl⟩, responseMatches_of_no_response rfl rfl⟩

end Sys2Proof.Machine
end

section
/-! The rules of 10_state.md about single fields: the bounds after a draw, who writes the LCG's constants
and the tag, the tag's encoding, and the state after reset. -/

namespace Sys2Proof.Machine

open Sys2Proof.Safety

/-- Settles O32: a draw leaves what the step of the recurrence gives, and that is a remainder. -/
theorem boundsAfterDraw : Obligations.BoundsAfterDraw := by
  intro i s t hi h
  obtain ⟨d, hd, hgen⟩ := exec_draw_gen hi h
  rw [hgen]
  exact ⟨fun a c m st => drawRaw_lcg_lt hd, fun st => drawRaw_randu_lt hd⟩

/-- Settles O51: of the steps that lead to an LCG, CONSTRUCT.LCG writes the configuration and the seed;
a draw, and a step that leaves the block as it is, found the constants there. -/
theorem lcgConstantsFixedAtConstruction : Obligations.LcgConstantsFixedAtConstruction := by
  intro s t a c m st h hgen
  obtain rfl | ⟨-, rfl⟩ | ⟨cmd, i, rest, hh, hdec, hx⟩ := step_next_cases h
  · exact .inr ⟨st, hgen⟩
  · cases hgen
  obtain ⟨x, rfl, rfl⟩ | ⟨x, rfl, rfl⟩ | ⟨x, rfl, rfl⟩ | ⟨rfl, d, hd, rfl⟩ | ⟨rfl, d, hd, rfl⟩ := exec_next hx
  · cases hgen
    exact .inl ⟨st, rest, decode_constructLcg hdec ▸ hh, rfl, rfl, rfl, rfl⟩
  · cases hgen
  · cases hgen
  all_goals exact .inr (drawRaw_keeps_constants hd hgen)

/-- A command that changes the tag is a CONSTRUCT, and it leaves a variant (R76). -/
theorem exec_changes_tag {i : Instr} {s t : State} (h : exec i s = .next t)
    (hne : tagOf t.gen ≠ tagOf s.gen) : constructs i = true ∧ t.gen ≠ .none := by
  obtain ⟨x, rfl, rfl⟩ | ⟨x, rfl, rfl⟩ | ⟨x, rfl, rfl⟩ | ⟨-, d, hd, rfl⟩ | ⟨-, d, hd, rfl⟩ := exec_next h
  case inl | inr.inl | inr.inr.inl => exact ⟨rfl, nofun⟩
  all_goals exact absurd (drawRaw_keeps_tag hd) hne

/-- Settles O52: a step that leaves the block as it is keeps the tag, a reset leads to `NONE`, and a
command that changes the tag is a CONSTRUCT. -/
theorem tagWrittenOnlyByConstructAndReset : Obligations.TagWrittenOnlyByConstructAndReset := by
  intro s t h hne
  obtain rfl | ⟨hh, rfl⟩ | ⟨c, i, rest, hh, hdec, hx⟩ := step_next_cases h
  · exact absurd rfl hne
  · exact .inl ⟨hh, rfl⟩
  · obtain ⟨hi, hnone⟩ := exec_changes_tag hx hne
    exact .inr ⟨c, by rw [hh, List.head?_cons], opField_of_decode_construct hdec hi, hnone⟩

/-- `VALID` is 0 for `NONE` only. -/
theorem tagBits_valid (t : Tag) : (tagBits t).msb = decide (t ≠ .none) := by
  cases t <;> decide

/-- A CONSTRUCT has completed since reset when the tag is not `NONE`. -/
theorem isConstructed_eq (g : Generator) : isConstructed g = decide (tagOf g ≠ .none) := by
  cases g <;> rfl

/-- `VAR = 3` is not used. -/
theorem tagBits_ne_valid_three (t : Tag) : tagBits t ≠ 0b111#3 := by
  cases t <;> decide

/-- The encoding tells the tags apart. -/
theorem tagBits_injective (t u : Tag) : tagBits t = tagBits u → t = u := by
  cases t <;> cases u <;> decide

/-- Settles O7, from the table of the encoding. -/
theorem tagAndFaultCodes : Obligations.TagAndFaultCodes :=
  ⟨fun g => ⟨(tagBits_valid _).trans (isConstructed_eq g).symm, tagBits_ne_valid_three _⟩,
    tagBits_injective, rfl, rfl, rfl, rfl, rfl⟩

/-- Settles O10: reset leaves `TAG = NONE`, where both draws fault. -/
theorem resetLeavesNoInstance : Obligations.ResetLeavesNoInstance :=
  ⟨fun _ => ⟨rfl, rfl, rfl, rfl, exec_draw_none rfl rfl, exec_draw_none rfl rfl⟩, rfl⟩

end Sys2Proof.Machine
end

section
/-! What serving an event answers, for each kind of command and of read, and the rules of 20_memory.md
about one step: the issued command, an overlap, and a read of a port. -/

namespace Sys2Proof.Machine

variable {s : State} {c : Command}

/-- A command that decodes to an instruction runs that instruction. -/
theorem runCommand_of_command {i : Instr} (h : decode c = .command i) : runCommand c s = exec i s := by
  simp only [runCommand, h]

/-- A command with a reserved code faults in every state (R56). -/
theorem runCommand_of_reserved (h : decode c = .reserved) : runCommand c s = .fault .reservedCmd := by
  simp only [runCommand, h]

/-- What the read of a port answers, by whether the port has a value. -/
theorem readPort_cases (port : Option (BitVec n)) (s : State) :
    (∀ v, port = some v → readPort port s = .next s) ∧
    (port = none → readPort port s = .refused .portWithoutValue) := by
  constructor
  · rintro v rfl
    exact readPort_some v
  · rintro rfl
    rfl

/-- Settles O8: the step serves the issued command, and that runs what it decodes to. -/
theorem stepRunsDecodedInstruction : Obligations.StepRunsDecodedInstruction := by
  intro s c rest hm hh
  have hstep : step s = runCommand c (withHost rest s) := step_serves hm hh
  exact ⟨hstep, fun i hi => hstep.trans (runCommand_of_command hi),
    fun hr => hstep.trans (runCommand_of_reserved hr)⟩

/-- Settles O13: the step serves the overlap, which is refused before either command is decoded. -/
theorem overlapRefused : Obligations.OverlapRefused :=
  fun _ _ _ _ hm hh => step_serves hm hh

/-- Settles O15: the step serves the read, on the ports that taking the event off the queue has kept. -/
theorem portReads : Obligations.PortReads := by
  intro s rest hm
  constructor <;> intro hh <;> rw [step_serves hm hh]
  · exact readPort_cases s.respU32 (withHost rest s)
  · exact readPort_cases s.respF64 (withHost rest s)

end Sys2Proof.Machine
end

section
/-! One block among several (R49, R125): the equations of its step, and what a schedule makes of it. -/

namespace Sys2Proof.Machine

variable {s t : State} {f : Fault}

/-- The step of a block that runs, by the outcome of its own step. -/
theorem stepBlock_live_of_next (h : step s = .next t) : stepBlock (.live s) = .live t := by
  simp only [stepBlock, h]

theorem stepBlock_live_of_fault (h : step s = .fault f) : stepBlock (.live s) = .faulted s f := by
  simp only [stepBlock, h]

theorem stepBlock_live_of_refused {r : Refusal} (h : step s = .refused r) :
    stepBlock (.live s) = .refused r := by
  simp only [stepBlock, h]

/-- The step of a faulted block, by whether there is a way out of the fault. -/
theorem stepBlock_faulted_of_some (h : leaveFault s = some t) : stepBlock (.faulted s f) = .live t := by
  simp only [stepBlock, h]

theorem stepBlock_faulted_of_none (h : leaveFault s = none) :
    stepBlock (.faulted s f) = .faulted s f := by
  simp only [stepBlock, h]

/-- A reset right after the faulting command leads out of the fault. -/
theorem leaveFault_of_reset {e : HostEvent} {rest : List HostEvent} (h : s.host = e :: .reset :: rest) :
    leaveFault s = some (hardwareReset (withHost rest s)) := by
  simp only [leaveFault, h]

/-- Nothing else leads out of it. -/
theorem leaveFault_eq_none (h : s.host[1]? ≠ some .reset) : leaveFault s = none := by
  refine Option.eq_none_iff_forall_ne_some.mpr fun t ht => ?_
  obtain ⟨e, rest, hh, -⟩ := leaveFault_some ht
  exact h (congrArg (·[1]?) hh)

/-- Settles O55: a block that runs goes by the outcome of its step, a faulted one by whether a reset is
the event after the faulting command. -/
theorem blockStopsByItself : Obligations.BlockStopsByItself :=
  ⟨fun _ _ => stepBlock_live_of_next, fun _ _ => stepBlock_live_of_fault,
    fun _ _ => stepBlock_live_of_refused,
    fun _ _ _ _ hh => stepBlock_faulted_of_some (leaveFault_of_reset hh),
    fun _ _ hh => stepBlock_faulted_of_none (leaveFault_eq_none hh), fun _ => rfl⟩

/-- The step of the `k`-th block is its own. -/
theorem stepAt_self (bs : List Block) (k : Nat) : (stepAt bs k)[k]? = bs[k]?.map stepBlock :=
  List.getElem?_modify_eq stepBlock k bs

/-- The step of the `k`-th block leaves every other block as it was. -/
theorem stepAt_other (bs : List Block) {j k : Nat} (h : j ≠ k) : (stepAt bs k)[j]? = bs[j]? :=
  List.getElem?_modify_ne stepBlock bs h.symm

/-- Under a schedule a block takes as many steps of its own as the schedule gives it. -/
theorem runBlocks_getElem? (ks : List Nat) (bs : List Block) (k : Nat) :
    (runBlocks ks bs)[k]? = bs[k]?.map (stepBlock^[ks.count k]) := by
  induction ks generalizing bs with
  | nil => rw [runBlocks, List.count_nil, Function.iterate_zero, Option.map_id_apply]
  | cons j ks ih =>
    rw [runBlocks, ih]
    obtain rfl | hjk := eq_or_ne k j
    · rw [stepAt_self, List.count_cons_self, Function.iterate_succ, Option.map_map]
    · rw [stepAt_other bs hjk, List.count_cons_of_ne hjk.symm]

/-- Settles O56: one step by the two rules of `stepAt`, any schedule by induction on it. -/
theorem blocksAreIndependent : Obligations.BlocksAreIndependent :=
  ⟨fun bs k => ⟨stepAt_self bs k, fun _ => stepAt_other bs⟩, runBlocks_getElem?⟩

end Sys2Proof.Machine
end

section
/-! The decoder and the encoder agree, and the seed only travels along (R54, R55, R63). -/

namespace Sys2Proof

variable {c : Command} {i : Instr}

/-- The instruction with another seed, where it carries one (R55). -/
def Instr.withSeed (x : U64) : Instr → Instr
  | .constructLcg _ => .constructLcg x
  | .constructRandu _ => .constructRandu x
  | .constructXs32 _ => .constructXs32 x
  | .constructMt _ => .constructMt x
  | .advanceU32 => .advanceU32
  | .advanceF64 => .advanceF64

/-- The decoder's answer with another seed; a rejection carries none. -/
def Decoded.withSeed (x : U64) : Decoded → Decoded
  | .command i => .command (i.withSeed x)
  | .reserved => .reserved

/-- The seed does not show in the word that spells an instruction. -/
theorem encode_withSeed_cmd (i : Instr) (x : U64) : (encode (i.withSeed x)).cmd = (encode i).cmd := by
  cases i <;> rfl

/-- A draw has no seed to replace. -/
theorem withSeed_of_no_seed (h : i.seed? = none) (x : U64) : i.withSeed x = i := by
  cases i with
  | constructLcg y | constructRandu y | constructXs32 y | constructMt y => cases h
  | advanceU32 | advanceF64 => rfl

/-- Another word on `SEED` changes the seed in the decoder's answer and nothing else (R63). -/
theorem decode_setSeed (c : Command) (x : U64) : decode { c with seed := x } = (decode c).withSeed x := by
  have hop : opField { c with seed := x } = opField c := rfl
  have hvar : varField { c with seed := x } = varField c := rfl
  simp only [decode, hop, hvar]
  cases operationOf (opField c) <;> cases variantOf (varField c) <;> rfl

/-- The decoder reads back every instruction the encoder wrote, on the codes of the two fields. -/
theorem decode_encode (i : Instr) : decode (encode i) = .command i := by
  cases i with
  | constructLcg x | constructRandu x | constructXs32 x | constructMt x | advanceU32 | advanceF64 =>
    simp only [decode, encode, opField_cmdWord, varField_cmdWord]
    rfl

/-- The word of an instruction decodes to that instruction whatever stands on `SEED`, which a CONSTRUCT
takes for its seed. -/
theorem decode_encode_setSeed (i : Instr) (x : U64) :
    decode { encode i with seed := x } = .command (i.withSeed x) := by
  rw [decode_setSeed, decode_encode]
  rfl

/-- Settles O3: the decoder reads the encoder's words back, and it answers an instruction only for the
word that spells it, with the instruction's seed on `SEED`. -/
theorem decodeEncodeRoundTrip : Obligations.DecodeEncodeRoundTrip := by
  refine ⟨decode_encode, fun c i h => ?_⟩
  obtain ⟨hcmd, hseed⟩ := decode_command h
  exact ⟨hcmd.symm, hseed⟩

/-- Settles O5: a change of `SEED` only replaces the seed in the answer, which leaves a rejection, the
word of the command, and a command without a seed as they were. -/
theorem decodingIgnoresSeed : Obligations.DecodingIgnoresSeed := by
  intro c x
  rw [decode_setSeed c x]
  refine ⟨fun h => ?_, fun i h => ?_⟩ <;> rw [h]
  · rfl
  · exact ⟨i.withSeed x, rfl, encode_withSeed_cmd i x, fun hi => withSeed_of_no_seed hi x⟩

end Sys2Proof
end

section
/-! The reserved codes (R56) and the whole opcode map (R54). -/

namespace Sys2Proof

/-- Whether a command is reserved is decided by `CMD`, so it can be read off the word with `SEED = 0`. -/
theorem decode_reserved_iff_seed_zero (cmd : BitVec 4) (x : U64) :
    decode { cmd := cmd, seed := x } = .reserved ↔ decode { cmd := cmd, seed := 0 } = .reserved := by
  rw [decode_setSeed { cmd := cmd, seed := 0 } x]
  cases decode { cmd := cmd, seed := 0 } <;> simp [Decoded.withSeed]

/-- The first wording of R56, on the two fields. -/
theorem decode_reserved_iff_fields (c : Command) :
    decode c = .reserved ↔
      ((opField c = 0b01#2 ∨ opField c = 0b10#2) ∧ varField c ≠ 0b00#2) ∨ opField c = 0b11#2 := by
  obtain ⟨cmd, x⟩ := c
  simp only [decode_reserved_iff_seed_zero cmd x, opField, varField]
  revert cmd
  decide

/-- The second wording of R56: the ten codes. -/
theorem decode_reserved_iff_mem (c : Command) :
    decode c = .reserved ↔
      c.cmd ∈ [0x5#4, 0x6#4, 0x7#4, 0x9#4, 0xA#4, 0xB#4, 0xC#4, 0xD#4, 0xE#4, 0xF#4] := by
  obtain ⟨cmd, x⟩ := c
  simp only [decode_reserved_iff_seed_zero cmd x]
  revert cmd
  decide

/-- The well-formedness check refuses the codes that the decoder rejects. -/
theorem decode_reserved_iff_not_wellFormed (c : Command) :
    decode c = .reserved ↔ c.wellFormed = false := by
  obtain ⟨cmd, x⟩ := c
  simp only [decode_reserved_iff_seed_zero cmd x, Command.wellFormed, Command.opDefined,
    Command.varDefined]
  revert cmd
  decide

/-- Settles O4: the two wordings and the check agree with the decoder word by word, and a command that
is rejected faults before the state is looked at. -/
theorem reservedCodesFault : Obligations.ReservedCodesFault := fun c _ =>
  ⟨decode_reserved_iff_fields c, decode_reserved_iff_mem c, decode_reserved_iff_not_wellFormed c,
    Machine.runCommand_of_reserved⟩

/-- Settles O1: six of the words are those that the encoder makes, and the other ten are reserved. -/
theorem opcodeMap : Obligations.OpcodeMap := by
  intro x
  refine ⟨decode_encode (.constructLcg x), decode_encode (.constructRandu x),
    decode_encode (.constructXs32 x), decode_encode (.constructMt x),
    decode_encode_setSeed .advanceU32 x, ?_, ?_, ?_,
    decode_encode_setSeed .advanceF64 x, ?_, ?_, ?_, ?_, ?_, ?_, ?_⟩
  all_goals exact (decode_reserved_iff_mem _).2 (by simp)

end Sys2Proof
end

section
/-! The fields of a word, the names of the variants, and the lines of the assembler (R51 to R53, R60). -/

namespace Sys2Proof

/-- The only names that resolve are the four of R53. -/
theorem mem_of_variantNamed {name : String} {v : Variant} (h : variantNamed name = some v) :
    name ∈ ["lcg", "randu", "xorshift32", "mt19937"] := by
  by_contra hname
  simp only [List.mem_cons, List.not_mem_nil, or_false, not_or] at hname
  obtain ⟨hlcg, hrandu, hxs, hmt⟩ := hname
  rw [variantNamed, if_neg hlcg, if_neg hrandu, if_neg hxs, if_neg hmt] at h
  cases h

/-- Settles O2: the fields and the codes by the definitions, and no name beyond the four. -/
theorem fieldCodesAndNames : Obligations.FieldCodesAndNames :=
  ⟨fun _ => ⟨rfl, rfl⟩, by decide, by decide, by decide, fun _ _ => mem_of_variantNamed⟩

/-- A construct line whose seed fits the port carries that seed. -/
theorem constructCommand_seed {v : Variant} {x : Nat} (h : x < 2 ^ 64) :
    (constructCommand v x).seed.toNat = x :=
  (BitVec.toNat_ofNat x 64).trans (Nat.mod_eq_of_lt h)

/-- Settles O6: the fields of the command a construct line stands for are its two codes, and the line is
well formed when its seed fits the port. -/
theorem assemblerLines : Obligations.AssemblerLines := by
  refine ⟨fun v x h => ⟨constructCommand v x, rfl, ?_, ?_, constructCommand_seed (of_decide_eq_true h)⟩,
    rfl, rfl⟩
  · rw [constructCommand, opField_cmdWord]
    rfl
  · rw [constructCommand, varField_cmdWord, variantOf_variantCode]

end Sys2Proof
end

section
/-! What a command leaves on the response ports, its outcome (R58, R59), and a table word run by the next
step. -/

namespace Sys2Proof.Machine

open Sys2Proof.Safety

variable {s : State} {i : Instr}

/-- Settles O16: a CONSTRUCT drives no port, and each draw drives its own and no other. -/
theorem responsePortsAfterCommand : Obligations.ResponsePortsAfterCommand := by
  intro i s t h
  obtain ⟨x, rfl, rfl⟩ | ⟨x, rfl, rfl⟩ | ⟨x, rfl, rfl⟩ | ⟨rfl, d, -, rfl⟩ | ⟨rfl, d, -, rfl⟩ := exec_next h
  case inl | inr.inl | inr.inr.inl => exact ⟨fun _ => ⟨rfl, rfl⟩, nofun, nofun⟩
  · exact ⟨nofun, fun _ => ⟨rfl, rfl⟩, nofun⟩
  · exact ⟨nofun, nofun, fun _ => ⟨rfl, rfl⟩⟩

/-- A CONSTRUCT of a variant in scope is done in every state. -/
theorem outcomeOf_exec_construct (s : State) (hi : constructs i = true) : outcomeOf (exec i s) = .done := by
  cases i with
  | constructLcg x | constructRandu x | constructXs32 x => rfl
  | constructMt x | advanceU32 | advanceF64 => cases hi

/-- The recurrence of a constructed block has a step, if an LCG has a modulus. -/
theorem drawRaw_of_constructed {g : Generator} (hm : ∀ a k st, g ≠ .lcg a k 0 st) (hg : g ≠ .none) :
    ∃ d, drawRaw g = .next d := by
  cases g with
  | none => exact absurd rfl hg
  | lcg a k m st => exact ⟨_, drawRaw_lcg fun h => hm a k st (h ▸ rfl)⟩
  | randu st | xs32 st => exact ⟨_, rfl⟩

/-- ADVANCE_U32 on such a block is done with a raw value. -/
theorem outcomeOf_advanceU32 (hm : ∀ a k st, s.gen ≠ .lcg a k 0 st) (hg : s.gen ≠ .none) :
    ∃ v, outcomeOf (exec .advanceU32 s) = .doneU32 v := by
  obtain ⟨d, hd⟩ := drawRaw_of_constructed hm hg
  rw [exec_advanceU32_of_draw hd]
  exact ⟨d.raw, rfl⟩

/-- ADVANCE_F64 on such a block is done with a normalized value. -/
theorem outcomeOf_advanceF64 (hm : ∀ a k st, s.gen ≠ .lcg a k 0 st) (hg : s.gen ≠ .none) :
    ∃ v, outcomeOf (exec .advanceF64 s) = .doneF64 v := by
  obtain ⟨d, hd⟩ := drawRaw_of_constructed hm hg
  rw [exec_advanceF64_of_draw hd]
  exact ⟨normF64 d.raw d.divisor, rfl⟩

/-- A draw with `TAG = NONE` has the fault for its outcome. -/
theorem outcomeOf_draw_none (hi : draws i = true) (hg : s.gen = .none) :
    outcomeOf (exec i s) = .fault .unconstructed := by
  rw [exec_draw_none hi hg]
  rfl

/-- Settles O17: the outcome of a command is that of the instruction it decodes to, and each row of R59
is a rule about that instruction. -/
theorem outcomeOfEveryCommand : Obligations.OutcomeOfEveryCommand := by
  intro c s hm
  refine ⟨fun i h hi => ?_, fun x h => ?_, fun h => ?_, fun h => ?_, fun h => ?_⟩
  · rw [runCommand_of_command h]
    exact outcomeOf_exec_construct s hi
  · rw [runCommand_of_command h]
    rfl
  · rw [runCommand_of_command h]
    exact ⟨outcomeOf_advanceU32 hm, outcomeOf_draw_none rfl⟩
  · rw [runCommand_of_command h]
    exact ⟨outcomeOf_advanceF64 hm, outcomeOf_draw_none rfl⟩
  · rw [runCommand_of_reserved h]
    rfl

/-- The decoder reads an instruction from a table word when the word's command spells it. -/
theorem decode_of_decodeTableWord {nbits w : Nat} (h : decodeTableWord nbits w = some i) :
    decode (commandOfTable nbits w) = .command i := by
  unfold decodeTableWord at h
  split at h
  · next j hj => rw [hj, Option.some.inj h]
  · cases h

/-- Settles O9: the step serves the command placed in front of the host's queue, on a state whose queue
is again the old one. -/
theorem tableWordRunsNext : Obligations.TableWordRunsNext := by
  intro s nbits w i hm h
  calc step (s.withFetchWord nbits w)
      = runCommand (commandOfTable nbits w) s := step_serves (s := s.withFetchWord nbits w) hm (present_host _ s)
    _ = exec i s := runCommand_of_command (decode_of_decodeTableWord h)

end Sys2Proof.Machine
end

section
/-! The CONSTRUCT commands (40_construct.md): what each stores, and that nothing else goes into it. -/

namespace Sys2Proof.Machine

open Sys2Proof.Safety

variable {i : Instr} {s s' t t' : State}

/-- Narrowing is the remainder modulo `2^32` (R72). -/
theorem seedNarrowed_toNat (x : U64) : (seedNarrowed x).toNat = x.toNat % 2 ^ 32 :=
  BitVec.toNat_setWidth 32 x

/-- The remap is tested on the narrowed seed, not on the seed (R73 b). -/
theorem seedNarrowed_eq_zero_iff (x : U64) : seedNarrowed x = 0 ↔ x.toNat % 2 ^ 32 = 0 := by
  rw [← seedNarrowed_toNat]
  exact BitVec.toNat_inj.symm

/-- The two cases of an Xorshift32's seed, by its remainder (R73). -/
theorem seedNonZero_of_mod_eq_zero {x : U64} (h : x.toNat % 2 ^ 32 = 0) : seedNonZero x = 1 :=
  if_pos ((seedNarrowed_eq_zero_iff x).2 h)

theorem seedNonZero_toNat_of_mod_ne_zero {x : U64} (h : x.toNat % 2 ^ 32 ≠ 0) :
    (seedNonZero x).toNat = x.toNat % 2 ^ 32 := by
  rw [seedNonZero, if_neg (mt (seedNarrowed_eq_zero_iff x).1 h), seedNarrowed_toNat]

/-- Of two instances installed one after the other the second is left. -/
@[simp] theorem install_install (g g' : Generator) (s : State) : install g (install g' s) = install g s := rfl

/-- A CONSTRUCT in scope completes in every state and installs an instance that is made from the
command and the configuration (R70). -/
theorem exec_construct (hi : constructs i = true) :
    ∃ instanceOf : LcgConfig → Generator, ∀ s, exec i s = .next (install (instanceOf s.cfg) s) := by
  cases i with
  | constructLcg x => exact ⟨fun cfg => .lcg cfg.a cfg.c cfg.m x, fun _ => rfl⟩
  | constructRandu x => exact ⟨fun _ => .randu (seedNarrowed x), fun _ => rfl⟩
  | constructXs32 x => exact ⟨fun _ => .xs32 (seedNonZero x), fun _ => rfl⟩
  | constructMt x | advanceU32 | advanceF64 => cases hi

/-- On blocks with one configuration a CONSTRUCT leaves equal instances and no response (R75). -/
theorem exec_construct_of_same_cfg (hi : constructs i = true) (hcfg : s.cfg = s'.cfg) :
    ∃ t t', exec i s = .next t ∧ exec i s' = .next t' ∧
      t.gen = t'.gen ∧ t.respU32 = t'.respU32 ∧ t.respF64 = t'.respF64 := by
  obtain ⟨instanceOf, hexec⟩ := exec_construct hi
  exact ⟨_, _, hexec s, hexec s', congrArg instanceOf hcfg, rfl, rfl⟩

/-- The same CONSTRUCT again changes nothing (R75). -/
theorem exec_construct_again (hi : constructs i = true) (h : exec i s = .next t) : exec i t = .next t := by
  obtain ⟨instanceOf, hexec⟩ := exec_construct hi
  cases (hexec s).symm.trans h
  rw [hexec, install_cfg, install_install]

/-- The raw value of a draw depends on the registers only (R91). -/
theorem exec_advanceU32_respU32_of_same_gen (hgen : s.gen = s'.gen) (h : exec .advanceU32 s = .next t)
    (h' : exec .advanceU32 s' = .next t') : t.respU32 = t'.respU32 := by
  obtain ⟨d, hd, rfl⟩ := drawThen_next h
  rw [hgen] at hd
  cases (exec_advanceU32_of_draw hd).symm.trans h'
  rfl

/-- Construct, draw, construct again, draw: the draw has kept the configuration, so the second CONSTRUCT
leaves the instance of the first, and the second draw repeats the raw value (R75). -/
theorem draw_repeats_after_reconstruction {t₁ t₂ t₃ t₄ : State} (hi : constructs i = true)
    (h₁ : exec i s = .next t₁) (h₂ : exec .advanceU32 t₁ = .next t₂)
    (h₃ : exec i t₂ = .next t₃) (h₄ : exec .advanceU32 t₃ = .next t₄) : t₄.respU32 = t₂.respU32 := by
  obtain ⟨instanceOf, hexec⟩ := exec_construct hi
  obtain ⟨hcfg, -⟩ := exec_keeps_cfg_and_host h₂
  cases (hexec s).symm.trans h₁
  cases (hexec t₂).symm.trans h₃
  exact exec_advanceU32_respU32_of_same_gen (congrArg instanceOf hcfg) h₄ h₂

/-- Settles O23: the instance is made from the command and the configuration, which no command writes. -/
theorem constructionIsDeterministic : Obligations.ConstructionIsDeterministic := fun _ hi =>
  ⟨fun _ _ => exec_construct_of_same_cfg hi, fun _ _ => exec_construct_again hi,
    fun _ _ _ _ _ => draw_repeats_after_reconstruction hi⟩

/-- Settles O19: the triple is that of the configuration, on this hardware the default one. -/
theorem constructLcgResult : Obligations.ConstructLcgResult := by
  refine ⟨fun _ _ => rfl, fun s t x hcfg h => ?_⟩
  have hgen : t.gen = .lcg s.cfg.a s.cfg.c s.cfg.m x := by cases h; rfl
  rw [hgen, hcfg]
  rfl

/-- Settles O20: truncation is the remainder modulo `2^32`. -/
theorem constructRanduResult : Obligations.ConstructRanduResult := by
  intro s x
  rw [← seedNarrowed_toNat, BitVec.ofNat_toNat, BitVec.setWidth_eq]
  rfl

/-- Settles O21: the stored word is the narrowed seed after the remap. -/
theorem constructXs32Result : Obligations.ConstructXs32Result := fun _ x =>
  ⟨seedNonZero x, rfl, seedNonZero_ne_zero x, seedNonZero_of_mod_eq_zero, seedNonZero_toNat_of_mod_ne_zero⟩

/-- Settles O22: the arm has no other outcome. -/
theorem constructMtRefused : Obligations.ConstructMtRefused := fun _ _ => rfl

end Sys2Proof.Machine
end

section
/-! The LCG draw (41_advance_u32.md section 2): the new state over the naturals, for any triple and for
the triple of this hardware. -/

namespace Sys2Proof.Machine

variable {s : State}

/-- ADVANCE_U32 on an LCG with a modulus. -/
theorem exec_advanceU32_lcg {a c m st : U64} (hgen : s.gen = .lcg a c m st) (hm : m ≠ 0) :
    exec .advanceU32 s =
      .next (respondU32 (lcgRaw (lcgNext a c m st)) (setGen (.lcg a c m (lcgNext a c m st)) s)) :=
  exec_advanceU32_of_draw (by rw [hgen]; exact drawRaw_lcg hm)

/-- Multiply and add wrap modulo `2^64`, each by itself, then the remainder (R81). -/
theorem lcgNext_toNat (a c m st : U64) :
    (lcgNext a c m st).toNat = (a.toNat * st.toNat % 2 ^ 64 + c.toNat) % 2 ^ 64 % m.toNat := by
  rw [lcgNext, addw64, mulw64, BitVec.toNat_umod, BitVec.toNat_add, BitVec.toNat_mul]

/-- The wraps can be taken together. -/
theorem lcgNext_toNat_wrap_once (a c m st : U64) :
    (lcgNext a c m st).toNat = (a.toNat * st.toNat + c.toNat) % 2 ^ 64 % m.toNat := by
  rw [lcgNext_toNat, Nat.mod_add_mod]

/-- A modulus that divides `2^64` does not see the wrap (R81 i). -/
theorem lcgNext_toNat_of_dvd {a c m st : U64} (hm : m.toNat ∣ 2 ^ 64) :
    (lcgNext a c m st).toNat = (a.toNat * st.toNat + c.toNat) % m.toNat := by
  rw [lcgNext_toNat_wrap_once, Nat.mod_mod_of_dvd _ hm]

/-- Where nothing wraps the recurrence is exact (R81 ii). -/
theorem lcgNext_toNat_of_lt {a c m st : U64} (h : a.toNat * st.toNat + c.toNat < 2 ^ 64) :
    (lcgNext a c m st).toNat = (a.toNat * st.toNat + c.toNat) % m.toNat := by
  rw [lcgNext_toNat_wrap_once, Nat.mod_eq_of_lt h]

/-- Settles O24: the state is that of the recurrence, and the wrap does not show for a modulus that
divides `2^64` or where nothing wraps. -/
theorem advanceU32Lcg : Obligations.AdvanceU32Lcg := by
  intro s a c m st hgen hm
  refine ⟨lcgNext a c m st, ?_, lcgNext_toNat a c m st, ?_⟩
  · rw [exec_advanceU32_lcg hgen hm, BitVec.ofNat_toNat]
    rfl
  · rintro (⟨k, hk, hpow⟩ | hlt)
    · have hdvd : m.toNat ∣ 2 ^ 64 := hpow ▸ Nat.pow_dvd_pow 2 (by omega)
      exact lcgNext_toNat_of_dvd hdvd
    · exact lcgNext_toNat_of_lt hlt

/-- The 32-bit multiply-add of this hardware's LCG (R82). -/
def lcgDefaultNext32 (st : U64) : U32 := 1664525#32 * st.setWidth 32 + 1013904223#32

/-- Its value over the naturals. -/
theorem lcgDefaultNext32_toNat (st : U64) :
    (lcgDefaultNext32 st).toNat = (1664525 * (st.toNat % 2 ^ 32) + 1013904223) % 2 ^ 32 := by
  rw [lcgDefaultNext32, BitVec.toNat_add, BitVec.toNat_mul, BitVec.toNat_setWidth, Nat.mod_add_mod]
  simp only [BitVec.toNat_ofNat, Nat.reducePow, Nat.reduceMod]

/-- It is the 64-bit form for the default triple, since the modulus is `2^32` (R82). -/
theorem lcgNext_default (st : U64) :
    lcgNext 1664525#64 1013904223#64 4294967296#64 st = (lcgDefaultNext32 st).setWidth 64 := by
  refine BitVec.eq_of_toNat_eq ?_
  rw [lcgNext_toNat_of_dvd (by decide), BitVec.toNat_setWidth_of_le (by decide), lcgDefaultNext32_toNat]
  have narrow : st.toNat ≡ st.toNat % 2 ^ 32 [MOD 2 ^ 32] := (Nat.mod_modEq ..).symm
  exact (narrow.mul_left 1664525).add_right 1013904223

/-- The raw value is the whole new state, whose upper half is zero. -/
theorem lcgRaw_setWidth (r : U32) : lcgRaw (r.setWidth 64) = r := by
  rw [lcgRaw, trunc32, BitVec.setWidth_setWidth_of_le r (by decide), BitVec.setWidth_eq]

/-- Settles O25: the new state is the 32-bit multiply-add, widened, and its low half is the raw value. -/
theorem advanceU32LcgDefault : Obligations.AdvanceU32LcgDefault := by
  intro s st hgen
  refine ⟨lcgDefaultNext32 st, ?_, lcgDefaultNext32_toNat st, rfl⟩
  rw [exec_advanceU32_lcg hgen (by decide), lcgNext_default, lcgRaw_setWidth]
  rfl

end Sys2Proof.Machine
end

section
/-! The RANDU draw (41_advance_u32.md section 3): the remainder modulo `2^31` and what follows from the
multiplier being odd. -/

namespace Sys2Proof.Machine

variable {s : State} {st st' : U32}

/-- ADVANCE_U32 on a RANDU. -/
theorem exec_advanceU32_randu (hgen : s.gen = .randu st) :
    exec .advanceU32 s = .next (respondU32 (randuNext st) (setGen (.randu (randuNext st)) s)) :=
  exec_advanceU32_of_draw (by rw [hgen]; rfl)

/-- The remainder of the true product, which 32 bits hold (R84). -/
theorem randuNext_toNat (st : U32) : (randuNext st).toNat = 65539 * st.toNat % 2 ^ 31 := by
  simp only [randuNext, randuMult, randuMod, BitVec.toNat_ofNat]
  omega

/-- The wrap of a 32-bit product does not show in its low 31 bits (R84). -/
theorem randuNext_eq_mul_and (st : U32) : randuNext st = (65539#32 * st) &&& 0x7FFFFFFF#32 := by
  refine BitVec.eq_of_toNat_eq ?_
  calc (randuNext st).toNat
      = 65539 * st.toNat % 2 ^ 32 % 2 ^ 31 := by rw [randuNext_toNat]; omega
    _ = (65539#32 * st).toNat &&& (2 ^ 31 - 1) := by
      rw [Nat.and_two_pow_sub_one_eq_mod, BitVec.toNat_mul]
      rfl
    _ = ((65539#32 * st) &&& 0x7FFFFFFF#32).toNat := (BitVec.toNat_and _ 0x7FFFFFFF#32).symm

/-- A left shift is a product by a power of two, wrapped. -/
theorem shl32_toNat (x : U32) (k : Nat) : (shl32 x k).toNat = x.toNat * 2 ^ k % 2 ^ 32 := by
  rw [shl32, BitVec.toNat_shiftLeft, Nat.shiftLeft_eq]

/-- `65539 = 2^16 + 2 + 1`, so the product is a sum of shifts (R84). -/
theorem randuNext_toNat_shifts (st : U32) :
    (randuNext st).toNat = ((shl32 st 16).toNat + (shl32 st 1).toNat + st.toNat) % 2 ^ 31 := by
  rw [randuNext_toNat, shl32_toNat, shl32_toNat]
  omega

/-- Settles O26: the draw is the step of the recurrence, which has the three forms. -/
theorem advanceU32Randu : Obligations.AdvanceU32Randu := fun _ st hgen =>
  ⟨randuNext st, exec_advanceU32_randu hgen, randuNext_toNat st, randuNext_eq_mul_and st,
    randuNext_toNat_shifts st⟩

/-- Only the low 31 bits of the state matter (R84). -/
theorem randuNext_congr (h : st.toNat % 2 ^ 31 = st'.toNat % 2 ^ 31) : randuNext st = randuNext st' := by
  refine BitVec.eq_of_toNat_eq ?_
  rw [randuNext_toNat, randuNext_toNat, Nat.mul_mod, h, ← Nat.mul_mod]

/-- Bit 31 has no effect (R85 c). -/
theorem randuNext_xor_bit31 (st : U32) : randuNext (st ^^^ 0x80000000#32) = randuNext st := by
  refine randuNext_congr ?_
  rw [BitVec.toNat_xor, Nat.xor_mod_two_pow]
  exact Nat.xor_zero _

/-- A multiple of `2^31` steps to what 0 steps to. -/
theorem randuNext_of_dvd (h : 2 ^ 31 ∣ st.toNat) : randuNext st = 0 :=
  randuNext_congr (st' := 0) (Nat.mod_eq_zero_of_dvd h)

/-- The multiplier is odd and the modulus is `2^31`, so the step keeps which powers of two up to `2^31`
divide the state (R85 d). -/
theorem two_pow_dvd_randuNext_iff (st : U32) {j : Nat} (hj : j ≤ 31) :
    2 ^ j ∣ (randuNext st).toNat ↔ 2 ^ j ∣ st.toNat := by
  have hodd : Nat.Coprime (2 ^ j) 65539 := Nat.Coprime.pow_left j (by decide)
  rw [randuNext_toNat, Nat.dvd_mod_iff (Nat.pow_dvd_pow 2 hj)]
  exact hodd.dvd_mul_left

/-- The parity is kept. -/
theorem randuNext_parity (st : U32) : (randuNext st).toNat % 2 = st.toNat % 2 := by
  rw [randuNext_toNat]
  omega

/-- Settles O27: items a to f by the rules of the step, each on the powers of two it speaks of. -/
theorem randuCornerCases : Obligations.RanduCornerCases :=
  ⟨randuNext_of_dvd (by decide), randuNext_of_dvd (by decide), randuNext_xor_bit31, randuNext_parity,
    fun st _ hz hdvd hndvd =>
      ⟨(two_pow_dvd_randuNext_iff st hz.le).2 hdvd, mt (two_pow_dvd_randuNext_iff st hz).1 hndvd⟩,
    fun _ => randuNext_of_dvd, randuNext_lt, by decide, by decide⟩

end Sys2Proof.Machine
end

section
/-! The Xorshift32 draw (41_advance_u32.md section 4): its recurrence is linear over XOR, so that it is
injective because it maps no non-zero word to 0. -/

namespace Sys2Proof.Machine

open Sys2Proof.Safety

variable {s t : State} {x y : U32}

/-- ADVANCE_U32 on an Xorshift32. -/
theorem exec_advanceU32_xs32 (hgen : s.gen = .xs32 x) :
    exec .advanceU32 s = .next (respondU32 (xs32Next x) (setGen (.xs32 (xs32Next x)) s)) :=
  exec_advanceU32_of_draw (by rw [hgen]; rfl)

/-- Settles O28: the recurrence is its three lines, with the shift counts written out. -/
theorem advanceU32Xs32 : Obligations.AdvanceU32Xs32 := by
  rintro s x0 x1 x2 x3 hgen rfl rfl rfl
  exact exec_advanceU32_xs32 hgen

/-- A word XORed with a left shift of itself is linear in the word. -/
theorem xor_shl32_linear (x y : U32) (k : Nat) :
    (x ^^^ y) ^^^ shl32 (x ^^^ y) k = (x ^^^ shl32 x k) ^^^ (y ^^^ shl32 y k) := by
  simp only [shl32, BitVec.shiftLeft_xor_distrib]
  ac_rfl

/-- So is a word XORed with a right shift of itself. -/
theorem xor_shr32_linear (x y : U32) (k : Nat) :
    (x ^^^ y) ^^^ shr32 (x ^^^ y) k = (x ^^^ shr32 x k) ^^^ (y ^^^ shr32 y k) := by
  simp only [shr32, BitVec.ushiftRight_xor_distrib]
  ac_rfl

/-- The recurrence is linear, line by line. -/
theorem xs32Next_xor (x y : U32) : xs32Next (x ^^^ y) = xs32Next x ^^^ xs32Next y := by
  have h1 : xsLine1 (x ^^^ y) = xsLine1 x ^^^ xsLine1 y := xor_shl32_linear x y _
  have h2 (u v : U32) : xsLine2 (u ^^^ v) = xsLine2 u ^^^ xsLine2 v := xor_shr32_linear u v _
  have h3 (u v : U32) : xsLine3 (u ^^^ v) = xsLine3 u ^^^ xsLine3 v := xor_shl32_linear u v _
  simp only [xs32Next, h1, h2, h3]

/-- Two states with one successor differ by a word that steps to 0, so they do not differ (R87). -/
theorem xs32Next_injective : Function.Injective xs32Next := by
  intro x y h
  by_contra hne
  have hstep : xs32Next (x ^^^ y) = 0 := by rw [xs32Next_xor, h, BitVec.xor_self]; rfl
  exact xs32Next_ne_zero (mt BitVec.xor_eq_zero_iff.1 hne) hstep

/-- Either draw of an Xorshift32 steps the state once, and the raw port shows nothing else. -/
theorem exec_draw_xs32 {i : Instr} (hgen : s.gen = .xs32 x) (hi : draws i = true)
    (h : exec i s = .next t) :
    t.gen = .xs32 (xs32Next x) ∧ (t.respU32 = some (xs32Next x) ∨ t.respU32 = none) := by
  have hd : drawRaw s.gen = .next ⟨xs32Next x, .xs32 (xs32Next x), xsDivisor⟩ := by rw [hgen]; rfl
  cases i with
  | constructLcg z | constructRandu z | constructXs32 z | constructMt z => cases hi
  | advanceU32 => cases (exec_advanceU32_of_draw hd).symm.trans h; exact ⟨rfl, .inl rfl⟩
  | advanceF64 => cases (exec_advanceF64_of_draw hd).symm.trans h; exact ⟨rfl, .inr rfl⟩

/-- Settles O29: the step is injective and keeps 0 apart, and a draw leaves and shows the stepped word. -/
theorem xs32NeverReachesZero : Obligations.Xs32NeverReachesZero := by
  refine ⟨fun _ _ h => xs32Next_injective h, by decide, fun s t x i hgen hx hi h => ?_⟩
  obtain ⟨htgen, hresp⟩ := exec_draw_xs32 hgen hi h
  refine ⟨⟨xs32Next x, htgen, xs32Next_ne_zero hx⟩, ?_⟩
  rcases hresp with hresp | hresp <;> rw [hresp]
  · exact fun h0 => xs32Next_ne_zero hx (Option.some.inj h0)
  · exact nofun

end Sys2Proof.Machine
end

section
/-! What the draws have in common (41_advance_u32.md sections 5 and 6): the fault, the frame, and that a
run from a CONSTRUCT on forgets what was there before. -/

namespace Sys2Proof.Machine

open Sys2Proof.Safety

variable {s s' : State} {i : Instr} {c : Command}

/-- Settles O30: both draws fault before they look at anything but the tag. -/
theorem drawUnconstructedFaults : Obligations.DrawUnconstructedFaults := fun _ _ hgen hi =>
  exec_draw_none hi hgen

/-- A draw from an LCG leaves an LCG with the same constants (R90). -/
theorem drawRaw_lcg_next {a k m st : U64} {d : Draw} (h : drawRaw (.lcg a k m st) = .next d) :
    ∃ st', d.next = .lcg a k m st' := by
  obtain ⟨_, _, _, _, hg, -, rfl⟩ | ⟨_, hg, -⟩ | ⟨_, hg, -⟩ := drawRaw_next h <;> cases hg
  exact ⟨_, rfl⟩

/-- Settles O31: no instruction writes the configuration or the host's queue, and the step of the
recurrence keeps the tag and the constants. -/
theorem drawFrame : Obligations.DrawFrame := by
  intro i s t hi h
  obtain ⟨hcfg, hhost⟩ := exec_keeps_cfg_and_host h
  obtain ⟨d, hd, hgen⟩ := exec_draw_gen hi h
  refine ⟨hcfg, hhost, hgen ▸ drawRaw_keeps_tag hd, fun a k m st hlcg => ?_⟩
  rw [hgen]
  exact drawRaw_lcg_next (hlcg ▸ hd)

/-- An install keeps only the configuration and the host's queue of the old state. -/
theorem install_eq_of_same_cfg_host (g : Generator) (hcfg : s.cfg = s'.cfg) (hhost : s.host = s'.host) :
    install g s = install g s' := by
  simp only [install, hcfg, hhost]

/-- So a CONSTRUCT has one outcome on states that agree in these two (R91). -/
theorem exec_construct_eq (hi : constructs i = true) (hcfg : s.cfg = s'.cfg) (hhost : s.host = s'.host) :
    exec i s = exec i s' := by
  obtain ⟨instanceOf, hexec⟩ := exec_construct hi
  rw [hexec s, hexec s', hcfg, install_eq_of_same_cfg_host _ hcfg hhost]

/-- With `CFG_M = 0` a step is refused, whatever the host does. -/
theorem step_of_modulus_zero (hm : s.cfg.m = 0) : step s = .refused .badConfig := if_pos hm

/-- The step that serves an issued CONSTRUCT depends on the configuration only. -/
theorem step_construct_eq (hcfg : s.cfg = s'.cfg) (hdec : decode c = .command i)
    (hi : constructs i = true) :
    step (withHost [.issue c] s) = step (withHost [.issue c] s') := by
  by_cases hm : s.cfg.m = 0
  · have hrefused (u : State) (hu : u.cfg.m = 0) : step (withHost [.issue c] u) = .refused .badConfig :=
      step_of_modulus_zero (s := withHost [.issue c] u) hu
    rw [hrefused s hm, hrefused s' (hcfg ▸ hm)]
  · have hserve (u : State) (hu : u.cfg.m ≠ 0) :
        step (withHost [.issue c] u) = exec i (withHost [] u) :=
      (step_serves (s := withHost [.issue c] u) hu rfl).trans (runCommand_of_command hdec)
    rw [hserve s hm, hserve s' (hcfg ▸ hm)]
    exact exec_construct_eq hi hcfg rfl

/-- Settles O53: the first step brings both blocks to one state or to one stop, so what is observed
after it is the same. -/
theorem observationDependsOnCommandsOnly : Obligations.ObservationDependsOnCommandsOnly := by
  intro s s' c i cs hcfg hdec hi
  rw [observe, observe, step_construct_eq hcfg hdec hi]

end Sys2Proof.Machine
end

section
/-! The finite patterns of binary64 (42_advance_f64.md R97): those below the pattern of infinity, and the
order of the patterns is the order of what they count. -/

namespace Sys2Proof.Machine

variable {v w : F64}

theorem f64FiniteNonNeg_iff (v : F64) : f64FiniteNonNeg v = true ↔ v.toNat < f64Infinity := by
  simp only [f64FiniteNonNeg, f64Sign, f64Exp_eq, f64Infinity, BitVec.msb_eq_decide, Bool.and_eq_true,
    Bool.not_eq_true', decide_eq_false_iff_not, bne_iff_ne, ne_eq]
  omega

/-- A finite pattern is a significand of at most 53 bits at a shift, the form that `f64Units_parts`
builds. -/
theorem f64_parts (h : f64FiniteNonNeg v = true) :
    ∃ t sig, sig < 2 ^ 53 ∧ (t = 0 ∨ 2 ^ 52 ≤ sig) ∧ v.toNat = t * 2 ^ 52 + sig ∧ f64Units v = sig * 2 ^ t := by
  have hfin := (f64FiniteNonNeg_iff v).1 h
  unfold f64Infinity at hfin
  have hfrac := f64Frac_eq v
  have hexp := f64Exp_eq v
  by_cases h0 : f64Exp v = 0
  · exact ⟨0, f64Frac v, by omega, .inl rfl, by omega, by simp only [f64Units, if_pos h0, pow_zero, mul_one]⟩
  · exact ⟨f64Exp v - 1, 2 ^ 52 + f64Frac v, by omega, .inr (Nat.le_add_right _ _), by omega,
      by simp only [f64Units, if_neg h0]⟩

/-- A larger pattern counts more: at a larger shift even the least significand does. -/
theorem f64Units_lt (hv : f64FiniteNonNeg v = true) (hw : f64FiniteNonNeg w = true) (h : v.toNat < w.toNat) :
    f64Units v < f64Units w := by
  obtain ⟨t, sig, hsig, hnorm, hn, hu⟩ := f64_parts hv
  obtain ⟨t', sig', hsig', hnorm', hn', hu'⟩ := f64_parts hw
  rw [hu, hu']
  rcases Nat.lt_or_ge t t' with ht | ht
  · calc sig * 2 ^ t < 2 ^ 53 * 2 ^ t := Nat.mul_lt_mul_of_pos_right hsig (Nat.two_pow_pos t)
      _ = 2 ^ 52 * 2 ^ (t + 1) := by rw [pow_succ 2 t]; ring
      _ ≤ sig' * 2 ^ t' := Nat.mul_le_mul (by omega) (Nat.pow_le_pow_right Nat.two_pos ht)
  · obtain rfl : t = t' := by omega
    exact Nat.mul_lt_mul_of_pos_right (by omega) (Nat.two_pow_pos t)

theorem f64Units_le_iff (hv : f64FiniteNonNeg v = true) (hw : f64FiniteNonNeg w = true) :
    f64Units v ≤ f64Units w ↔ v.toNat ≤ w.toNat := by
  constructor
  · exact fun h => Nat.le_of_not_lt fun hlt => absurd (f64Units_lt hw hv hlt) (Nat.not_lt.2 h)
  · intro h
    rcases Nat.eq_or_lt_of_le h with heq | hlt
    · rw [BitVec.eq_of_toNat_eq heq]
    · exact (f64Units_lt hv hw hlt).le

theorem eq_of_f64Units_eq (hv : f64FiniteNonNeg v = true) (hw : f64FiniteNonNeg w = true)
    (h : f64Units v = f64Units w) : v = w :=
  BitVec.eq_of_toNat_eq (le_antisymm ((f64Units_le_iff hv hw).1 h.le) ((f64Units_le_iff hw hv).1 h.ge))

/-- From `2^(52 + t)` on, finite numbers are multiples of `2^t`. -/
theorem two_pow_dvd_f64Units_or_lt (hv : f64FiniteNonNeg v = true) (t : Nat) :
    2 ^ t ∣ f64Units v ∨ f64Units v < 2 ^ (52 + t) := by
  obtain ⟨t', sig, hsig, -, -, hu⟩ := f64_parts hv
  rw [hu]
  rcases Nat.lt_or_ge t' t with ht | ht
  · refine .inr ?_
    calc sig * 2 ^ t' < 2 ^ 53 * 2 ^ t' := Nat.mul_lt_mul_of_pos_right hsig (Nat.two_pow_pos t')
      _ = 2 ^ (53 + t') := (pow_add 2 53 t').symm
      _ ≤ 2 ^ (52 + t) := Nat.pow_le_pow_right Nat.two_pos (by omega)
  · exact .inl (Dvd.dvd.mul_left (pow_dvd_pow 2 ht) sig)

end Sys2Proof.Machine
end

section
/-! Rounding is monotone in the ratio: the floor, the shift, the rounded division, and so the pattern. -/

namespace Sys2Proof.Machine

variable {n d n' d' : Nat}

theorem div_le_div_of_cross_le (hd : 0 < d) (hd' : 0 < d') (h : n * d' ≤ n' * d) : n / d ≤ n' / d' := by
  rw [Nat.le_div_iff_mul_le hd']
  refine Nat.le_of_mul_le_mul_right ?_ hd
  calc n / d * d' * d = n / d * d * d' := Nat.mul_right_comm _ _ _
    _ ≤ n * d' := Nat.mul_le_mul_right d' (Nat.div_mul_le_self n d)
    _ ≤ n' * d := h

/-- Where two ratios have one floor, the larger ratio has the larger rest. -/
theorem mod_cross_le (hq : n / d = n' / d') (h : n * d' ≤ n' * d) : n % d * d' ≤ n' % d' * d := by
  have hn := Nat.div_add_mod n d
  have hn' := Nat.div_add_mod n' d'
  refine Nat.le_of_add_le_add_left (a := d * (n' / d') * d') ?_
  calc d * (n' / d') * d' + n % d * d' = n * d' := by rw [← hq, ← Nat.add_mul, hn]
    _ ≤ n' * d := h
    _ = d * (n' / d') * d' + n' % d' * d := by nth_rw 1 [← hn']; ring

theorem divNearestEven_mono (hd : 0 < d) (hd' : 0 < d') (h : n * d' ≤ n' * d) :
    divNearestEven n d ≤ divNearestEven n' d' := by
  rcases Nat.eq_or_lt_of_le (div_le_div_of_cross_le hd hd' h) with heq | hlt
  · have hrest := mod_cross_le heq h
    have hdown : 2 * (n' % d') < d' → 2 * (n % d) < d := fun hlt => by nlinarith
    have hup : d < 2 * (n % d) → d' < 2 * (n' % d') := fun hlt => by nlinarith
    unfold divNearestEven
    rw [heq]
    by_cases h1 : 2 * (n % d) < d
    · rw [if_pos h1]; split_ifs <;> omega
    · rw [if_neg h1, if_neg (mt hdown h1)]
      split_ifs <;> omega
  · exact (divNearestEven_floor n d).2.trans (Nat.le_trans hlt (divNearestEven_floor n' d').1)

theorem ratioShift_mono (hd : 0 < d) (hd' : 0 < d') (h : n * d' ≤ n' * d) :
    ratioShift n d ≤ ratioShift n' d' := by
  have hfloor : n * 2 ^ f64UnitExp / d ≤ n' * 2 ^ f64UnitExp / d' := by
    refine div_le_div_of_cross_le hd hd' ?_
    rw [Nat.mul_right_comm, Nat.mul_right_comm n']
    exact Nat.mul_le_mul_right _ h
  unfold ratioShift
  rw [Nat.log2_eq_log_two, Nat.log2_eq_log_two]
  exact Nat.sub_le_sub_right (Nat.log_mono_right hfloor) 52

/-- The pattern that `roundRatio` cuts off at infinity. -/
def roundedPattern (n d : Nat) : Nat :=
  ratioShift n d * 2 ^ 52 + divNearestEven (n * 2 ^ f64UnitExp) (d * 2 ^ ratioShift n d)

theorem roundRatio_toNat (n d : Nat) : (roundRatio n d).toNat = min f64Infinity (roundedPattern n d) := by
  unfold roundRatio
  rw [BitVec.toNat_ofNat]
  exact Nat.mod_eq_of_lt ((Nat.min_le_left _ _).trans_lt (by decide))

/-- At one shift the significand is monotone; at a larger shift it has 53 bits, and one that rounds up to
`2^53` at the smaller shift is no larger. -/
theorem roundedPattern_mono (hd : 0 < d) (hd' : 0 < d') (h : n * d' ≤ n' * d) :
    roundedPattern n d ≤ roundedPattern n' d' := by
  unfold roundedPattern
  rcases Nat.eq_or_lt_of_le (ratioShift_mono hd hd' h) with heq | hlt
  · rw [heq]
    refine Nat.add_le_add_left (divNearestEven_mono (Nat.mul_pos hd (Nat.two_pow_pos _))
      (Nat.mul_pos hd' (Nat.two_pow_pos _)) ?_) _
    rw [Nat.mul_mul_mul_comm, Nat.mul_mul_mul_comm n']
    exact Nat.mul_le_mul_right _ h
  · obtain ⟨hsig, -⟩ := ratio_significand n d
    obtain ⟨-, hnorm'⟩ := ratio_significand n' d'
    have hup := (divNearestEven_floor (n * 2 ^ f64UnitExp) (d * 2 ^ ratioShift n d)).2
    have hlow' := (divNearestEven_floor (n' * 2 ^ f64UnitExp) (d' * 2 ^ ratioShift n' d')).1
    omega

theorem roundRatio_mono (hd : 0 < d) (hd' : 0 < d') (h : n * d' ≤ n' * d) :
    (roundRatio n d).toNat ≤ (roundRatio n' d').toNat := by
  rw [roundRatio_toNat, roundRatio_toNat]
  exact min_le_min_left _ (roundedPattern_mono hd hd' h)

/-- Rounding sees the ratio only, not the two numbers that make it. -/
theorem roundRatio_congr (hd : 0 < d) (hd' : 0 < d') (h : n * d' = n' * d) : roundRatio n d = roundRatio n' d' :=
  BitVec.eq_of_toNat_eq (le_antisymm (roundRatio_mono hd hd' h.le) (roundRatio_mono hd' hd h.ge))

end Sys2Proof.Machine
end

section
/-! Rounding is to nearest, ties to even, for a ratio no larger than the largest finite number (R100). -/

namespace Sys2Proof.Machine

open Sys2Proof.Safety

variable {n d : Nat}

/-- The largest finite number, `(2^53 - 1) * 2^971`. -/
def f64MaxFinite : Nat := (2 ^ 53 - 1) * 2 ^ 971

theorem roundRatio_maxFinite : roundRatio f64MaxFinite 1 = 0x7FEFFFFFFFFFFFFF#64 := by decide +kernel

theorem roundedPattern_lt_infinity (hd : 0 < d) (h : n ≤ d * f64MaxFinite) :
    roundedPattern n d < f64Infinity := by
  have hmax := congrArg BitVec.toNat roundRatio_maxFinite
  rw [roundRatio_toNat] at hmax
  have hmono : roundedPattern n d ≤ roundedPattern f64MaxFinite 1 :=
    roundedPattern_mono hd Nat.one_pos (by rwa [Nat.mul_one, Nat.mul_comm])
  have hinf : (0x7FEFFFFFFFFFFFFF#64).toNat < f64Infinity := by decide
  omega

theorem roundRatio_toNat_of_le (hd : 0 < d) (h : n ≤ d * f64MaxFinite) :
    (roundRatio n d).toNat = roundedPattern n d := by
  rw [roundRatio_toNat, Nat.min_eq_right (roundedPattern_lt_infinity hd h).le]

theorem roundRatio_finite (hd : 0 < d) (h : n ≤ d * f64MaxFinite) : f64FiniteNonNeg (roundRatio n d) = true := by
  rw [f64FiniteNonNeg_iff, roundRatio_toNat_of_le hd h]
  exact roundedPattern_lt_infinity hd h

/-- The value of a rounded ratio over the common denominator: a multiple of the step `d * 2^t` at the
ratio's shift `t`, rounded to nearest even. -/
theorem f64Units_roundRatio_mul (hd : 0 < d) (h : n ≤ d * f64MaxFinite) :
    f64Units (roundRatio n d) * d =
      d * 2 ^ ratioShift n d * divNearestEven (n * 2 ^ f64UnitExp) (d * 2 ^ ratioShift n d) := by
  rw [f64Units_roundRatio (roundedPattern_lt_infinity hd h)]
  ring

theorem f64Frac_roundRatio_mod_two (hd : 0 < d) (h : n ≤ d * f64MaxFinite) :
    f64Frac (roundRatio n d) % 2 = divNearestEven (n * 2 ^ f64UnitExp) (d * 2 ^ ratioShift n d) % 2 := by
  rw [f64Frac_eq, roundRatio_toNat_of_le hd h, roundedPattern]
  omega

theorem divNearestEven_even_of_tie (hd : 0 < d) (h : 2 * gap (d * divNearestEven n d) n = d) :
    divNearestEven n d % 2 = 0 := by
  have hn := Nat.div_add_mod n d
  have hr := Nat.mod_lt n hd
  have hsucc : d * (n / d + 1) = d * (n / d) + d := Nat.mul_succ _ _
  unfold gap divNearestEven at h
  unfold divNearestEven
  split_ifs at h ⊢ <;> omega

/-- No multiple of the divisor is nearer than the rounded one, and one as near makes a tie: different
multiples are the divisor apart. -/
theorem divNearestEven_nearest (n : Nat) (hd : 0 < d) (k : Nat) :
    gap (d * divNearestEven n d) n ≤ gap (d * k) n ∧
    (k ≠ divNearestEven n d → gap (d * divNearestEven n d) n = gap (d * k) n → divNearestEven n d % 2 = 0) := by
  obtain ⟨hle, hge⟩ := divNearestEven_error n hd
  have htie := divNearestEven_even_of_tie (n := n) hd
  unfold gap at htie ⊢
  rcases Nat.lt_trichotomy k (divNearestEven n d) with hk | rfl | hk
  · have hapart : d * k + d ≤ d * divNearestEven n d := Nat.mul_le_mul_left d hk
    omega
  · exact ⟨le_rfl, fun hne => absurd rfl hne⟩
  · have hapart : d * divNearestEven n d + d ≤ d * k := Nat.mul_le_mul_left d hk
    omega

/-- Every finite number over `d` is a multiple of the ratio's step, or below the floor of the ratio. -/
theorem finite_multiple_or_below (n : Nat) (hd : 0 < d) {w : F64} (hw : f64FiniteNonNeg w = true) :
    (∃ k, f64Units w = k * 2 ^ ratioShift n d) ∨
    f64Units w * d < d * 2 ^ ratioShift n d * (n * 2 ^ f64UnitExp / (d * 2 ^ ratioShift n d)) := by
  rcases two_pow_dvd_f64Units_or_lt hw (ratioShift n d) with hdvd | hlt
  · exact .inl (exists_eq_mul_left_of_dvd hdvd)
  rcases (ratio_significand n d).2 with h0 | hnorm
  · exact .inl ⟨f64Units w, by rw [h0, pow_zero, Nat.mul_one]⟩
  · refine .inr ?_
    calc f64Units w * d < 2 ^ (52 + ratioShift n d) * d := Nat.mul_lt_mul_of_pos_right hlt hd
      _ = d * 2 ^ ratioShift n d * 2 ^ 52 := by rw [pow_add]; ring
      _ ≤ _ := Nat.mul_le_mul_left _ hnorm

/-- `roundRatio` is correctly rounded: below the floor a number is farther than the floor itself, and
among the multiples of the step `divNearestEven` takes the nearest. -/
theorem nearestEven_roundRatio (hd : 0 < d) (h : n ≤ d * f64MaxFinite) : NearestEven n d (roundRatio n d) := by
  refine ⟨roundRatio_finite hd h, fun w hw => ?_⟩
  have hstep : 0 < d * 2 ^ ratioShift n d := Nat.mul_pos hd (Nat.two_pow_pos _)
  rw [f64Units_roundRatio_mul hd h, f64Frac_roundRatio_mod_two hd h]
  rcases finite_multiple_or_below n hd hw with ⟨k, hk⟩ | hbelow
  · have hmul : f64Units w * d = d * 2 ^ ratioShift n d * k := by rw [hk]; ring
    rw [hmul]
    obtain ⟨hnear, htie⟩ := divNearestEven_nearest (n * 2 ^ f64UnitExp) hstep k
    refine ⟨hnear, fun hne => htie fun hkq => hne (eq_of_f64Units_eq hw (roundRatio_finite hd h) ?_)⟩
    rw [hk, hkq, f64Units_roundRatio (roundedPattern_lt_infinity hd h)]
  · have hnear :=
      (divNearestEven_nearest (n * 2 ^ f64UnitExp) hstep (n * 2 ^ f64UnitExp / (d * 2 ^ ratioShift n d))).1
    have hfloor := Nat.mul_div_le (n * 2 ^ f64UnitExp) (d * 2 ^ ratioShift n d)
    unfold gap at hnear ⊢
    omega

/-- The relative error of a ratio that is not subnormal is at most `2^-53`. -/
theorem roundRatio_error (hd : 0 < d) (h : n ≤ d * f64MaxFinite) (hnormal : 2 ^ 52 * d ≤ n * 2 ^ f64UnitExp) :
    2 ^ 53 * gap (f64Units (roundRatio n d) * d) (n * 2 ^ f64UnitExp) ≤ n * 2 ^ f64UnitExp := by
  have hstep : 2 ^ 52 * (d * 2 ^ ratioShift n d) ≤ n * 2 ^ f64UnitExp := by
    rcases (ratio_significand n d).2 with h0 | hnorm
    · rwa [h0, pow_zero, Nat.mul_one]
    · exact (Nat.le_div_iff_mul_le (Nat.mul_pos hd (Nat.two_pow_pos _))).1 hnorm
  rw [f64Units_roundRatio_mul hd h]
  obtain ⟨hle, hge⟩ := divNearestEven_error (n * 2 ^ f64UnitExp) (Nat.mul_pos hd (Nat.two_pow_pos (ratioShift n d)))
  unfold gap
  omega

end Sys2Proof.Machine
end

section
/-! A ratio with at most 53 significant bits is not rounded; the conversions and the laws of the division
(R98 to R100). -/

namespace Sys2Proof.Machine

variable {n d : Nat}

theorem ratioShift_le {t : Nat} (h : n * 2 ^ f64UnitExp < d * 2 ^ (53 + t)) : ratioShift n d ≤ t := by
  have hlt : n * 2 ^ f64UnitExp / d < 2 ^ (53 + t) := Nat.div_lt_of_lt_mul h
  have hlog := Nat.log_lt_of_lt_pow' (by omega) hlt
  unfold ratioShift
  rw [Nat.log2_eq_log_two]
  omega

/-- The step at such a ratio's shift divides the ratio. -/
theorem f64Units_roundRatio_exact {sig t : Nat} (hd : 0 < d) (hsig : sig < 2 ^ 53) (hmax : n ≤ d * f64MaxFinite)
    (h : n * 2 ^ f64UnitExp = d * (sig * 2 ^ t)) : f64Units (roundRatio n d) = sig * 2 ^ t := by
  have hshift : ratioShift n d ≤ t := by
    refine ratioShift_le ?_
    rw [h, pow_add]
    exact Nat.mul_lt_mul_of_pos_left (Nat.mul_lt_mul_of_pos_right hsig (Nat.two_pow_pos t)) hd
  obtain ⟨i, rfl⟩ := Nat.exists_eq_add_of_le hshift
  have hsplit : n * 2 ^ f64UnitExp = d * 2 ^ ratioShift n d * (sig * 2 ^ i) := by rw [h, pow_add]; ring
  rw [f64Units_roundRatio (roundedPattern_lt_infinity hd hmax), hsplit,
    divNearestEven_exact _ (Nat.mul_pos hd (Nat.two_pow_pos _)), pow_add]
  ring

theorem roundRatio_zero (hd : 0 < d) : roundRatio 0 d = 0 := by
  rw [roundRatio_congr hd Nat.one_pos (by rw [Nat.zero_mul, Nat.zero_mul] : 0 * 1 = 0 * d)]
  decide +kernel

theorem roundRatio_self (hd : 0 < d) : roundRatio d d = 0x3FF0000000000000#64 := by
  rw [roundRatio_congr hd Nat.one_pos (Nat.mul_comm d 1)]
  decide +kernel

/-! ### The conversions (R98, R99) -/

theorem le_maxFinite_of_le_two_pow_64 {m : Nat} (h : m ≤ 2 ^ 64) : m ≤ 1 * f64MaxFinite :=
  h.trans (by decide +kernel)

theorem f64Units_roundRatio_int {m q k : Nat} (hm : m ≤ 2 ^ 64) (hq : q < 2 ^ 53) (h : m = q * 2 ^ k) :
    f64Units (roundRatio m 1) = m * 2 ^ f64UnitExp := by
  rw [f64Units_roundRatio_exact (sig := q) (t := k + f64UnitExp) Nat.one_pos hq (le_maxFinite_of_le_two_pow_64 hm)
    (by rw [h, pow_add]; ring), h, pow_add, Nat.mul_assoc]

theorem u32ToF64_finite (r : U32) : f64FiniteNonNeg (u32ToF64 r) = true :=
  roundRatio_finite Nat.one_pos (le_maxFinite_of_le_two_pow_64 (by omega))

theorem u64ToF64_finite (m : U64) : f64FiniteNonNeg (u64ToF64 m) = true :=
  roundRatio_finite Nat.one_pos (le_maxFinite_of_le_two_pow_64 (by omega))

theorem f64Units_u32ToF64 (r : U32) : f64Units (u32ToF64 r) = r.toNat * 2 ^ f64UnitExp :=
  f64Units_roundRatio_int (q := r.toNat) (k := 0) (by omega) (by omega) (Nat.mul_one _).symm

/-- `2^53` itself has one significant bit. -/
theorem f64Units_u64ToF64 {m : U64} {q k : Nat} (hq : q ≤ 2 ^ 53) (h : m.toNat = q * 2 ^ k) :
    f64Units (u64ToF64 m) = m.toNat * 2 ^ f64UnitExp := by
  rcases Nat.eq_or_lt_of_le hq with rfl | hlt
  · exact f64Units_roundRatio_int (q := 1) (k := 53 + k) (by omega) (by decide) (by rw [h, pow_add, Nat.one_mul])
  · exact f64Units_roundRatio_int (by omega) hlt h

/-- Settles O38: an integer of at most 53 significant bits is not rounded, and any other is rounded to
nearest even. -/
theorem integerConversions : Obligations.IntegerConversions :=
  ⟨fun r => ⟨u32ToF64_finite r, f64Units_u32ToF64 r⟩,
    fun m _ _ hq h => ⟨u64ToF64_finite m, f64Units_u64ToF64 hq h⟩,
    fun _ => nearestEven_roundRatio Nat.one_pos (le_maxFinite_of_le_two_pow_64 (by omega))⟩

/-- The wired divisors are converted integers (R102, R103). -/
theorem u32ToF64_eq_randuDivisor : u32ToF64 2147483648#32 = randuDivisor := by decide +kernel

theorem u32ToF64_eq_xsDivisor : u32ToF64 0xFFFFFFFF#32 = xsDivisor := by decide +kernel

/-- Settles O37, by evaluation of the conversions. -/
theorem divisorPatterns : Obligations.DivisorPatterns :=
  ⟨by decide +kernel, u32ToF64_eq_randuDivisor, rfl, u32ToF64_eq_xsDivisor, rfl⟩

/-! ### The division (R100) -/

variable {x y : F64}

theorem fdivDefined_iff : fdivDefined x y = true ↔
    f64FiniteNonNeg x = true ∧ f64FiniteNonNeg y = true ∧ 0 < f64Units y := by
  simp only [fdivDefined, Bool.and_eq_true, bne_iff_ne, Nat.pos_iff_ne_zero, and_assoc]

theorem units_pos_of_fdivDefined (h : fdivDefined x y = true) : 0 < f64Units y := by
  obtain ⟨-, -, hpos⟩ := fdivDefined_iff.1 h
  exact hpos

theorem fdiv64_eq (h : fdivDefined x y = true) : fdiv64 x y = roundRatio (f64Units x) (f64Units y) := if_pos h

/-- Settles O39: the division is the rounding of the ratio of what the operands count. -/
theorem divisionIsCorrectlyRounded : Obligations.DivisionIsCorrectlyRounded := by
  intro x y h hmax
  rw [fdiv64_eq h]
  exact nearestEven_roundRatio (units_pos_of_fdivDefined h) hmax

theorem exponent_lt_of_two_pow_le {sig t j p : Nat} (hsig : sig < 2 ^ 53) (h : 2 ^ j ≤ sig * 2 ^ t * 2 ^ p) :
    j < 53 + t + p := by
  refine (Nat.pow_lt_pow_iff_right Nat.one_lt_two).1 (h.trans_lt ?_)
  rw [pow_add, pow_add]
  exact Nat.mul_lt_mul_of_pos_right (Nat.mul_lt_mul_of_pos_right hsig (Nat.two_pow_pos t)) (Nat.two_pow_pos p)

/-- Divided by `2^j`, the significand of `x` stays as it is, and in the normal range the shift, `j` less,
is still one of the format. -/
theorem fdiv64_exact_of_two_pow {j : Nat} (h : fdivDefined x y = true) (hy : f64Units y = 2 ^ j)
    (hlow : f64Units y ≤ f64Units x * 2 ^ 1022) (hmax : f64Units x ≤ f64Units y * f64MaxFinite) :
    f64Units (fdiv64 x y) * f64Units y = f64Units x * 2 ^ f64UnitExp := by
  obtain ⟨hx, -, hpos⟩ := fdivDefined_iff.1 h
  obtain ⟨t, sig, hsig, -, -, hux⟩ := f64_parts hx
  rw [hy, hux] at hlow
  have hj : j ≤ t + f64UnitExp := by
    have hlt := exponent_lt_of_two_pow_le hsig hlow
    unfold f64UnitExp
    omega
  obtain ⟨i, hi⟩ := Nat.exists_eq_add_of_le hj
  have hratio : f64Units x * 2 ^ f64UnitExp = f64Units y * (sig * 2 ^ i) := by
    rw [hux, hy, Nat.mul_assoc, ← pow_add, hi, pow_add]; ring
  rw [fdiv64_eq h, f64Units_roundRatio_exact hpos hsig hmax hratio, hratio, Nat.mul_comm]

theorem fdiv64_zero (h : fdivDefined 0 y = true) : fdiv64 0 y = 0 :=
  (fdiv64_eq h).trans (roundRatio_zero (units_pos_of_fdivDefined h))

theorem fdiv64_self (h : fdivDefined y y = true) : fdiv64 y y = 0x3FF0000000000000#64 :=
  (fdiv64_eq h).trans (roundRatio_self (units_pos_of_fdivDefined h))

theorem fdiv64_mono {x' : F64} (h : fdivDefined x y = true) (h' : fdivDefined x' y = true)
    (hle : f64Units x ≤ f64Units x') : (fdiv64 x y).toNat ≤ (fdiv64 x' y).toNat := by
  have hpos := units_pos_of_fdivDefined h
  rw [fdiv64_eq h, fdiv64_eq h']
  exact roundRatio_mono hpos hpos (Nat.mul_le_mul_right _ hle)

/-- Settles O40: each law is one of the rounding of a ratio. -/
theorem divisionLaws : Obligations.DivisionLaws :=
  ⟨fun _ _ _ => fdiv64_exact_of_two_pow, fun _ => fdiv64_zero, fun _ => fdiv64_self, fun _ _ _ => fdiv64_mono⟩

end Sys2Proof.Machine
end

section
/-! The normalization (R96) by the divisors of the three variants, and the exact patterns of R104. -/

namespace Sys2Proof.Machine

variable {d : F64}

theorem fdivDefined_u32ToF64 (r : U32) (hd : f64FiniteNonNeg d = true) (hpos : 0 < f64Units d) :
    fdivDefined (u32ToF64 r) d = true := fdivDefined_iff.2 ⟨u32ToF64_finite r, hd, hpos⟩

theorem normF64_eq (r : U32) (hd : f64FiniteNonNeg d = true) (hpos : 0 < f64Units d) :
    normF64 r d = roundRatio (r.toNat * 2 ^ f64UnitExp) (f64Units d) := by
  rw [normF64, fdiv64_eq (fdivDefined_u32ToF64 r hd hpos), f64Units_u32ToF64]

/-- A divisor that stands for an integer: the normalization is the rounding of one ratio of integers. -/
theorem normF64_of_int (r : U32) {k : Nat} (hd : f64FiniteNonNeg d = true) (hk : 0 < k)
    (hunits : f64Units d = k * 2 ^ f64UnitExp) : normF64 r d = roundRatio r.toNat k := by
  have hpos : 0 < f64Units d := hunits ▸ Nat.mul_pos hk (Nat.two_pow_pos _)
  rw [normF64_eq r hd hpos, hunits]
  exact roundRatio_congr (hunits ▸ hpos) hk (by ring)

theorem normF64_u32ToF64 (r : U32) {k : U32} (hk : 0 < k.toNat) : normF64 r (u32ToF64 k) = roundRatio r.toNat k.toNat :=
  normF64_of_int r (u32ToF64_finite k) hk (f64Units_u32ToF64 k)

theorem normF64_randuDivisor (r : U32) : normF64 r randuDivisor = roundRatio r.toNat (2 ^ 31) :=
  u32ToF64_eq_randuDivisor ▸ normF64_u32ToF64 r (k := 2147483648#32) (by decide)

theorem normF64_xsDivisor (r : U32) : normF64 r xsDivisor = roundRatio r.toNat (2 ^ 32 - 1) :=
  u32ToF64_eq_xsDivisor ▸ normF64_u32ToF64 r (k := 0xFFFFFFFF#32) (by decide)

theorem normF64_two_pow (r : U32) {k : Nat} (hk : k ≤ 63) :
    normF64 r (u64ToF64 (BitVec.ofNat 64 (2 ^ k))) = roundRatio r.toNat (2 ^ k) := by
  have hlt : 2 ^ k < 2 ^ 64 := Nat.pow_lt_pow_right Nat.one_lt_two (by omega)
  have hval : (BitVec.ofNat 64 (2 ^ k)).toNat = 2 ^ k := (BitVec.toNat_ofNat _ _).trans (Nat.mod_eq_of_lt hlt)
  refine normF64_of_int r (u64ToF64_finite _) (Nat.two_pow_pos k) ?_
  rw [f64Units_u64ToF64 (q := 1) (k := k) (by decide) (by rw [hval, Nat.one_mul]), hval]

theorem normF64_lcgDivisor (r : U32) : normF64 r (u64ToF64 4294967296#64) = roundRatio r.toNat (2 ^ 32) :=
  normF64_two_pow r (k := 32) (by decide)

/-- The significand of `r` shifted up to 53 bits is that of `r / 2^k`. -/
theorem roundRatio_two_pow {r k e : Nat} (hk : k ≤ 63) (he : e ≤ 52) (hlow : 2 ^ e ≤ r) (hhigh : r < 2 ^ (e + 1)) :
    roundRatio r (2 ^ k) = BitVec.ofNat 64 ((1023 + e - k) * 2 ^ 52 + (r - 2 ^ e) * 2 ^ (52 - e)) := by
  have hpow : 2 ^ e * 2 ^ (52 - e) = 2 ^ 52 := by rw [← pow_add, Nat.add_sub_cancel' he]
  have hsig : 2 ^ 52 ≤ r * 2 ^ (52 - e) := hpow ▸ Nat.mul_le_mul_right _ hlow
  have hsig' : r * 2 ^ (52 - e) < 2 ^ 53 :=
    calc r * 2 ^ (52 - e) < 2 ^ (e + 1) * 2 ^ (52 - e) := Nat.mul_lt_mul_of_pos_right hhigh (Nat.two_pow_pos _)
      _ = 2 * (2 ^ e * 2 ^ (52 - e)) := by rw [pow_succ]; ring
      _ = 2 ^ 53 := by rw [hpow]; rfl
  have hexact : r * 2 ^ f64UnitExp = 2 ^ k * 2 ^ (1022 + e - k) * (r * 2 ^ (52 - e)) := by
    have hexp : f64UnitExp = k + (1022 + e - k) + (52 - e) := by unfold f64UnitExp; omega
    rw [hexp, pow_add, pow_add]; ring
  have hpattern : (1022 + e - k) * 2 ^ 52 + r * 2 ^ (52 - e) =
      (1023 + e - k) * 2 ^ 52 + (r - 2 ^ e) * 2 ^ (52 - e) := by
    rw [Nat.sub_mul r, hpow]; omega
  rw [roundRatio_exact (Nat.two_pow_pos k) hsig hsig' hexact, Nat.min_eq_right, hpattern]
  unfold f64Infinity
  omega

/-- Settles O41: the normalization rounds `r / 2^k`, which is a significand of 53 bits at a shift. -/
theorem powerOfTwoDivisorExact : Obligations.PowerOfTwoDivisorExact := by
  intro r k hk
  rw [normF64_two_pow r hk]
  refine ⟨fun hr => hr ▸ roundRatio_zero (Nat.two_pow_pos k), fun e hlow hhigh => ?_⟩
  have he : e < 32 := (Nat.pow_lt_pow_iff_right Nat.one_lt_two).1 (hlow.trans_lt r.isLt)
  exact roundRatio_two_pow hk (by omega) hlow hhigh

/-- A ratio `n / d` below `n' / d` by more than twice the error of rounding has a smaller pattern: with
equal patterns both ratios would be within the error of one number. -/
theorem roundRatio_lt {n n' d : Nat} (hd : 0 < d) (hmax : n' ≤ d * f64MaxFinite)
    (hnormal : 2 ^ 52 * d ≤ n * 2 ^ f64UnitExp) (hgap : n * (2 ^ 53 + 1) < n' * (2 ^ 53 - 1)) :
    (roundRatio n d).toNat < (roundRatio n' d).toNat := by
  have hle : n ≤ n' := by omega
  refine lt_of_le_of_ne (roundRatio_mono hd hd (Nat.mul_le_mul_right d hle)) fun heq => ?_
  have herr := roundRatio_error hd (hle.trans hmax) hnormal
  have herr' := roundRatio_error hd hmax (hnormal.trans (Nat.mul_le_mul_right _ hle))
  have hscaled := Nat.mul_lt_mul_of_pos_right hgap (Nat.two_pow_pos f64UnitExp)
  rw [Nat.mul_right_comm, Nat.mul_right_comm n'] at hscaled
  rw [BitVec.eq_of_toNat_eq heq] at herr
  unfold Safety.gap at herr herr'
  omega

/-- The quotient of a raw value that is not 0 by an integer of at most 64 bits, at its least. -/
theorem le_roundRatio_of_pos {n d k : Nat} (hd : 0 < d) (hk : d ≤ n * 2 ^ k) :
    (roundRatio 1 (2 ^ k)).toNat ≤ (roundRatio n d).toNat :=
  roundRatio_mono (Nat.two_pow_pos k) hd (by rwa [Nat.one_mul])

/-- For divisors of up to 32 bits raw values one apart differ by more than rounding can hide. -/
theorem roundRatio_raw_lt {r r' : U32} {k : Nat} (hk : 0 < k) (hk' : k ≤ 2 ^ 32) (h : r.toNat < r'.toNat) :
    (roundRatio r.toNat k).toNat < (roundRatio r'.toNat k).toNat := by
  rcases Nat.eq_zero_or_pos r.toNat with h0 | hpos
  · rw [h0, roundRatio_zero hk]
    have hleast := le_roundRatio_of_pos (n := r'.toNat) (k := 32) hk (by omega)
    have hval : (roundRatio 1 (2 ^ 32)).toNat = 0x3DF0000000000000 := by decide +kernel
    rw [hval] at hleast
    exact lt_of_lt_of_le (by decide) hleast
  · refine roundRatio_lt hk ?_ ?_ (by omega)
    · have hmax : 2 ^ 32 ≤ f64MaxFinite := by decide +kernel
      exact r'.isLt.le.trans (hmax.trans (Nat.le_mul_of_pos_left _ hk))
    · calc 2 ^ 52 * k ≤ 1 * 2 ^ 84 := by omega
        _ ≤ r.toNat * 2 ^ f64UnitExp := Nat.mul_le_mul hpos (Nat.pow_le_pow_right Nat.two_pos (by decide))

/-- Settles O45: each of the three divisors is an integer of at most `2^32`. -/
theorem normStrictlyMonotone : Obligations.NormStrictlyMonotone := by
  intro r r' d hd h
  simp only [List.mem_cons, List.not_mem_nil, or_false] at hd
  rcases hd with rfl | rfl | rfl
  · rw [normF64_lcgDivisor, normF64_lcgDivisor]
    exact roundRatio_raw_lt (by decide) (by decide) h
  · rw [normF64_randuDivisor, normF64_randuDivisor]
    exact roundRatio_raw_lt (by decide) (by decide) h
  · rw [normF64_xsDivisor, normF64_xsDivisor]
    exact roundRatio_raw_lt (by decide) (by decide) h

end Sys2Proof.Machine
end

section
/-! The ranges of the normalized results (R105), and that no special value occurs (R106). -/

namespace Sys2Proof.Machine

variable {r : U32} {d : F64}

theorem normF64_mono {r r' : U32} (hd : f64FiniteNonNeg d = true) (hpos : 0 < f64Units d)
    (h : r.toNat ≤ r'.toNat) : (normF64 r d).toNat ≤ (normF64 r' d).toNat :=
  fdiv64_mono (fdivDefined_u32ToF64 r hd hpos) (fdivDefined_u32ToF64 r' hd hpos)
    (by rw [f64Units_u32ToF64, f64Units_u32ToF64]; exact Nat.mul_le_mul_right _ h)

theorem normF64_randuDivisor_le (h : r.toNat < 2 ^ 31) : (normF64 r randuDivisor).toNat ≤ 0x3FEFFFFFFFC00000 := by
  have hmax : (roundRatio (2 ^ 31 - 1) (2 ^ 31)).toNat = 0x3FEFFFFFFFC00000 := by decide +kernel
  rw [normF64_randuDivisor, ← hmax]
  exact roundRatio_mono (by decide) (by decide) (Nat.mul_le_mul_right _ (by omega))

theorem roundRatio_two_pow_32_max : (roundRatio (2 ^ 32 - 1) (2 ^ 32)).toNat = 0x3FEFFFFFFFE00000 := by
  decide +kernel

theorem normF64_lcgDivisor_le (r : U32) : (normF64 r (u64ToF64 4294967296#64)).toNat ≤ 0x3FEFFFFFFFE00000 := by
  rw [normF64_lcgDivisor, ← roundRatio_two_pow_32_max]
  exact roundRatio_mono (by decide) (by decide) (Nat.mul_le_mul_right _ (by omega))

/-- A conversion keeps the bounds of the integer that are integers of at most 53 bits. -/
theorem le_f64Units_u64ToF64 {q : Nat} {m : U64} (hq : q < 2 ^ 53) (h : q ≤ m.toNat) :
    q * 2 ^ f64UnitExp ≤ f64Units (u64ToF64 m) := by
  have hq' : q ≤ 2 ^ 64 := by omega
  rw [← f64Units_roundRatio_int (k := 0) hq' hq (Nat.mul_one q).symm,
    f64Units_le_iff (roundRatio_finite Nat.one_pos (le_maxFinite_of_le_two_pow_64 hq')) (u64ToF64_finite m)]
  exact roundRatio_mono Nat.one_pos Nat.one_pos (Nat.mul_le_mul_right 1 h)

theorem f64Units_u64ToF64_pos {m : U64} (h : 0 < m.toNat) : 0 < f64Units (u64ToF64 m) := by
  have hle := le_f64Units_u64ToF64 (q := 1) (by decide) h
  rw [Nat.one_mul] at hle
  exact (Nat.two_pow_pos f64UnitExp).trans_le hle

theorem f64Units_u64ToF64_le (m : U64) : f64Units (u64ToF64 m) ≤ 2 ^ 64 * 2 ^ f64UnitExp := by
  rw [← f64Units_roundRatio_int (q := 1) (k := 64) le_rfl (by decide) (Nat.one_mul _).symm,
    f64Units_le_iff (u64ToF64_finite m) (roundRatio_finite Nat.one_pos (le_maxFinite_of_le_two_pow_64 le_rfl))]
  exact roundRatio_mono Nat.one_pos Nat.one_pos (Nat.mul_le_mul_right 1 m.isLt.le)

/-- A modulus above the raw value still is so after its conversion, and then the quotient is at most
`(2^32 - 1) / 2^32`, from where rounding does not reach 1.0. -/
theorem normF64_u64ToF64_lt_one {m : U64} (h : r.toNat < m.toNat) :
    (normF64 r (u64ToF64 m)).toNat < 0x3FF0000000000000 := by
  have hr := r.isLt
  have hunits : (r.toNat + 1) * 2 ^ f64UnitExp ≤ f64Units (u64ToF64 m) := le_f64Units_u64ToF64 (by omega) h
  have hpos : 0 < f64Units (u64ToF64 m) := f64Units_u64ToF64_pos (by omega)
  have hle : (normF64 r (u64ToF64 m)).toNat ≤ 0x3FEFFFFFFFE00000 := by
    rw [normF64_eq r (u64ToF64_finite m) hpos, ← roundRatio_two_pow_32_max]
    refine roundRatio_mono hpos (by decide) ?_
    calc r.toNat * 2 ^ f64UnitExp * 2 ^ 32 = r.toNat * 2 ^ 32 * 2 ^ f64UnitExp := Nat.mul_right_comm _ _ _
      _ ≤ (2 ^ 32 - 1) * (r.toNat + 1) * 2 ^ f64UnitExp := Nat.mul_le_mul_right _ (by omega)
      _ = (2 ^ 32 - 1) * ((r.toNat + 1) * 2 ^ f64UnitExp) := Nat.mul_assoc _ _ _
      _ ≤ _ := Nat.mul_le_mul_left _ hunits
  omega

/-- The range of the Xorshift32 results: the least and the two greatest, and all between by
monotonicity. -/
theorem normF64_xsDivisor_range (hr : r ≠ 0) :
    0x3DF0000000100000 ≤ (normF64 r xsDivisor).toNat ∧ (normF64 r xsDivisor).toNat ≤ 0x3FF0000000000000 ∧
    (normF64 r xsDivisor = 0x3FF0000000000000#64 ↔ r = 0xFFFFFFFF#32) ∧
    (r ≠ 0xFFFFFFFF#32 → (normF64 r xsDivisor).toNat ≤ 0x3FEFFFFFFFE00000) := by
  have hleast : (normF64 1 xsDivisor).toNat = 0x3DF0000000100000 := by decide +kernel
  have hnext : (normF64 0xFFFFFFFE#32 xsDivisor).toNat = 0x3FEFFFFFFFE00000 := by decide +kernel
  have hone : normF64 0xFFFFFFFF#32 xsDivisor = 0x3FF0000000000000#64 := by decide +kernel
  have hfin : f64FiniteNonNeg xsDivisor = true := by decide
  have hpos : 0 < f64Units xsDivisor := by decide +kernel
  have hbelow : r ≠ 0xFFFFFFFF#32 → (normF64 r xsDivisor).toNat ≤ 0x3FEFFFFFFFE00000 := fun hne =>
    hnext ▸ normF64_mono hfin hpos (by bv_omega)
  refine ⟨hleast ▸ normF64_mono hfin hpos (by bv_omega), ?_, ⟨fun h => ?_, fun h => h ▸ hone⟩, hbelow⟩
  · exact (normF64_mono hfin hpos (by bv_omega)).trans_eq (congrArg BitVec.toNat hone)
  · by_contra hne
    have hle := hbelow hne
    rw [h] at hle
    exact absurd hle (by decide)

end Sys2Proof.Machine
end

section
/-! ADVANCE_F64 (R95): the result of each variant, the sequence it shares with ADVANCE_U32 (R107), and the
ranges of its results. -/

namespace Sys2Proof.Machine

open Sys2Proof.Safety

variable {s t : State} {g : Generator} {d : Draw}

/-- Settles O35: the normalized draw answers from the step of the recurrence of the live variant. -/
theorem advanceF64Result : Obligations.AdvanceF64Result := by
  refine ⟨fun s a c m st hgen hm => ?_, fun s st hgen => ?_, fun s st hgen => ?_, fun s hgen => ?_⟩
  · exact exec_advanceF64_of_draw (hgen ▸ drawRaw_lcg hm)
  · exact exec_advanceF64_of_draw (d := ⟨randuNext st, .randu (randuNext st), randuDivisor⟩) (hgen ▸ rfl)
  · exact exec_advanceF64_of_draw (d := ⟨xs32Next st, .xs32 (xs32Next st), xsDivisor⟩) (hgen ▸ rfl)
  · exact exec_draw_none rfl hgen

/-- A draw stops exactly as the step of the recurrence does. -/
theorem drawThen_fault_iff {answer : Draw → State → State} {f : Fault} :
    drawThen answer s = .fault f ↔ drawRaw s.gen = .fault f := by
  unfold drawThen
  cases drawRaw s.gen <;> simp

theorem drawThen_refused_iff {answer : Draw → State → State} {r : Refusal} :
    drawThen answer s = .refused r ↔ drawRaw s.gen = .refused r := by
  unfold drawThen
  cases drawRaw s.gen <;> simp

/-- The divisor is that of the variant the draw is made on. -/
theorem drawRaw_divisorOf_before (h : drawRaw g = .next d) : divisorOf g = some d.divisor := by
  obtain ⟨a, c, m, st, rfl, -, rfl⟩ | ⟨st, rfl, rfl⟩ | ⟨st, rfl, rfl⟩ := drawRaw_next h <;> rfl

/-- Settles O36: both draws pass on one step of the recurrence and differ in the answer only. -/
theorem drawsShareOneSequence : Obligations.DrawsShareOneSequence := by
  intro s
  refine ⟨fun f => drawThen_fault_iff.trans drawThen_fault_iff.symm,
    fun r => drawThen_refused_iff.trans drawThen_refused_iff.symm, fun t h => ?_, fun t' h => ?_⟩
  · obtain ⟨d, hd, rfl⟩ := drawThen_next h
    exact ⟨_, d.raw, d.divisor, exec_advanceF64_of_draw hd, rfl, rfl, drawRaw_divisorOf_before hd, rfl⟩
  · obtain ⟨d, hd, -⟩ := drawThen_next h
    exact ⟨_, exec_advanceU32_of_draw hd⟩

theorem exec_advanceF64_next (h : exec .advanceF64 s = .next t) :
    ∃ d, drawRaw s.gen = .next d ∧ t.gen = d.next ∧ t.respF64 = some (normF64 d.raw d.divisor) := by
  obtain ⟨d, hd, rfl⟩ := drawThen_next h
  exact ⟨d, hd, rfl, rfl⟩

/-- Settles O42: the new state is not 0 and is the raw value. -/
theorem xs32ResultRange : Obligations.Xs32ResultRange := by
  refine ⟨fun r hr => normF64_xsDivisor_range hr, fun s t x hgen hx h => ?_⟩
  obtain ⟨d, hd, hnext, hresp⟩ := exec_advanceF64_next h
  rw [hgen] at hd
  cases hd
  obtain ⟨hlow, hhigh, hone, hbelow⟩ := normF64_xsDivisor_range (xs32Next_ne_zero hx)
  rw [hnext]
  simp only [ne_eq, Generator.xs32.injEq]
  exact ⟨_, hresp, hlow, hhigh, hone, hbelow⟩

theorem lcgRaw_toNat_le (st : U64) : (lcgRaw st).toNat ≤ st.toNat := by
  rw [lcgRaw, trunc32, BitVec.toNat_setWidth]
  exact Nat.mod_le _ _

/-- Settles O43: the raw value of RANDU is below `2^31`, and that of an LCG below its modulus. -/
theorem lcgAndRanduResultRange : Obligations.LcgAndRanduResultRange := by
  refine ⟨fun r => normF64_randuDivisor_le, normF64_lcgDivisor_le, fun r m => normF64_u64ToF64_lt_one,
    fun s t h => ?_⟩
  obtain ⟨d, hd, -, hresp⟩ := exec_advanceF64_next h
  refine ⟨fun st hgen => ⟨_, hresp, ?_⟩, fun a c st hgen => ⟨_, hresp, ?_⟩, fun a c m st hgen => ⟨_, hresp, ?_⟩⟩ <;>
    rw [hgen] at hd
  · cases hd
    exact normF64_randuDivisor_le (randuNext_lt st)
  · rw [drawRaw_lcg (by decide)] at hd
    cases hd
    exact normF64_lcgDivisor_le _
  · obtain ⟨a, c, m, st, hg, hm, rfl⟩ | ⟨_, hg, -⟩ | ⟨_, hg, -⟩ := drawRaw_next hd <;> cases hg
    exact normF64_u64ToF64_lt_one ((lcgRaw_toNat_le _).trans_lt (lcgNext_lt a c st hm))

/-- The quotient of a raw value by a divisor that is no smaller and at most `2^64` is 0 or from `2^-64` to
1.0. -/
theorem normF64_not_special {r : U32} {x : F64} (hfin : f64FiniteNonNeg x = true) (hpos : 0 < f64Units x)
    (hraw : r.toNat * 2 ^ f64UnitExp ≤ f64Units x) (hmax : f64Units x ≤ 2 ^ 64 * 2 ^ f64UnitExp) :
    (normF64 r x).toNat ≤ 0x3FF0000000000000 ∧ (normF64 r x = 0 ∨ 1023 - 64 ≤ f64Exp (normF64 r x)) := by
  rw [normF64_eq r hfin hpos]
  have hone : (roundRatio (r.toNat * 2 ^ f64UnitExp) (f64Units x)).toNat ≤ 0x3FF0000000000000 :=
    (roundRatio_mono hpos hpos (Nat.mul_le_mul_right _ hraw)).trans_eq
      (congrArg BitVec.toNat (roundRatio_self hpos))
  refine ⟨hone, ?_⟩
  rcases Nat.eq_zero_or_pos r.toNat with h0 | hr
  · rw [h0, Nat.zero_mul]
    exact .inl (roundRatio_zero hpos)
  · have hleast := le_roundRatio_of_pos (n := r.toNat * 2 ^ f64UnitExp) (k := 64) hpos
      (hmax.trans (by rw [Nat.mul_comm]; exact Nat.mul_le_mul_right _ (Nat.le_mul_of_pos_left _ hr)))
    have hval : (roundRatio 1 (2 ^ 64)).toNat = 0x3BF0000000000000 := by decide +kernel
    rw [f64Exp_eq]
    omega

/-- A draw divides by a finite number from 1 to `2^64` that is no less than the raw value. -/
theorem drawRaw_divisor_bounds (h : drawRaw g = .next d) :
    f64FiniteNonNeg d.divisor = true ∧ 0 < f64Units d.divisor ∧
    d.raw.toNat * 2 ^ f64UnitExp ≤ f64Units d.divisor ∧ f64Units d.divisor ≤ 2 ^ 64 * 2 ^ f64UnitExp := by
  have hunit := Nat.two_pow_pos f64UnitExp
  obtain ⟨a, c, m, st, -, hm, rfl⟩ | ⟨st, -, rfl⟩ | ⟨st, -, rfl⟩ := drawRaw_next h
  · have hraw : (lcgRaw (lcgNext a c m st)).toNat < m.toNat := (lcgRaw_toNat_le _).trans_lt (lcgNext_lt a c st hm)
    exact ⟨u64ToF64_finite m, f64Units_u64ToF64_pos (by omega), le_f64Units_u64ToF64 (by omega) hraw.le, f64Units_u64ToF64_le m⟩
  · have hraw := randuNext_lt st
    rw [← u32ToF64_eq_randuDivisor, f64Units_u32ToF64]
    exact ⟨u32ToF64_finite _, Nat.mul_pos (by decide) hunit, Nat.mul_le_mul_right _ hraw.le,
      Nat.mul_le_mul_right _ (by decide)⟩
  · have hraw := (xs32Next st).isLt
    rw [← u32ToF64_eq_xsDivisor, f64Units_u32ToF64]
    exact ⟨u32ToF64_finite _, Nat.mul_pos (by decide) hunit, Nat.mul_le_mul_right _ (Nat.le_of_lt_succ hraw),
      Nat.mul_le_mul_right _ (by decide)⟩

/-- Settles O44, from the bounds of the divisor of a draw. -/
theorem noSpecialValues : Obligations.NoSpecialValues := by
  refine ⟨fun g d h => ?_, fun s t h => ?_⟩
  · obtain ⟨hfin, hpos, -, -⟩ := drawRaw_divisor_bounds h
    exact fdivDefined_u32ToF64 d.raw hfin hpos
  · obtain ⟨d, hd, -, hresp⟩ := exec_advanceF64_next h
    obtain ⟨hfin, hpos, hraw, hmax⟩ := drawRaw_divisor_bounds hd
    obtain ⟨hone, hleast⟩ := normF64_not_special hfin hpos hraw hmax
    exact ⟨_, hresp, (f64FiniteNonNeg_iff _).2 (hone.trans_lt (by decide)), hone, hleast⟩

end Sys2Proof.Machine
end

section
/-! The duty of the host (60_exceptions.md R132), command by command, and progress under it (R120, R131):
the next event of a dutiful host completes and leaves the duty for the events after it. -/

namespace Sys2Proof.Machine

open Sys2Proof.Safety

variable {s : State} {c : Command} {i : Instr} {g : Generator} {k u f : Bool} {es : List HostEvent}

/-- After a CONSTRUCT in scope the duty goes on from a constructed block without a response. -/
theorem hostDutiful_construct (hdec : decode c = .command i) (hi : constructs i = true) :
    hostDutiful k u f (.issue c :: es) = hostDutiful true false false es := by
  rw [hostDutiful, hdec]
  cases i with
  | constructLcg x | constructRandu x | constructXs32 x => rfl
  | constructMt x | advanceU32 | advanceF64 => cases hi

/-- A draw is dutiful on a constructed block only, and the duty goes on with a value on its port. -/
theorem hostDutiful_advanceU32 (hdec : decode c = .command .advanceU32) :
    hostDutiful k u f (.issue c :: es) = (k && hostDutiful k true false es) := by
  rw [hostDutiful, hdec]

theorem hostDutiful_advanceF64 (hdec : decode c = .command .advanceF64) :
    hostDutiful k u f (.issue c :: es) = (k && hostDutiful k false true es) := by
  rw [hostDutiful, hdec]

/-- The three kinds of command that a dutiful host issues, and the duty that each leaves. -/
theorem hostDutiful_issue_cases (h : hostDutiful k u f (.issue c :: es) = true) :
    (∃ i, decode c = .command i ∧ constructs i = true ∧ hostDutiful true false false es = true) ∨
    (decode c = .command .advanceU32 ∧ k = true ∧ hostDutiful k true false es = true) ∨
    (decode c = .command .advanceF64 ∧ k = true ∧ hostDutiful k false true es = true) := by
  cases hdec : decode c with
  | reserved => rw [hostDutiful, hdec] at h; cases h
  | command i =>
    cases i with
    | constructLcg x | constructRandu x | constructXs32 x =>
      exact .inl ⟨_, rfl, rfl, (hostDutiful_construct hdec rfl).symm.trans h⟩
    | constructMt x => rw [hostDutiful, hdec] at h; cases h
    | advanceU32 =>
      rw [hostDutiful_advanceU32 hdec] at h
      exact .inr (.inl ⟨rfl, Bool.and_eq_true_iff.1 h⟩)
    | advanceF64 =>
      rw [hostDutiful_advanceF64 hdec] at h
      exact .inr (.inr ⟨rfl, Bool.and_eq_true_iff.1 h⟩)

/-- A CONSTRUCT in scope completes and leaves a constructed block. -/
theorem exec_construct_isConstructed (hi : constructs i = true) :
    ∃ g, isConstructed g = true ∧ exec i s = .next (install g s) := by
  cases i with
  | constructLcg x | constructRandu x | constructXs32 x => exact ⟨_, rfl, rfl⟩
  | constructMt x | advanceU32 | advanceF64 => cases hi

/-- Legal registers of a constructed block have a step of the recurrence. -/
theorem drawRaw_of_genOk (hok : genOk g = true) (hg : isConstructed g = true) : ∃ d, drawRaw g = .next d := by
  refine drawRaw_of_constructed (fun a k st h => ?_) (fun h => ?_) <;> subst h
  · exact bne_iff_ne.1 hok rfl
  · cases hg

/-- A draw leaves a block as constructed as it was. -/
theorem drawRaw_keeps_isConstructed {d : Draw} (h : drawRaw g = .next d) :
    isConstructed d.next = isConstructed g := by
  rw [isConstructed_eq, isConstructed_eq, drawRaw_keeps_tag h]

/-- A command that a dutiful host issues completes, and the duty goes on. -/
theorem runCommand_of_dutiful (hok : genOk s.gen = true)
    (h : hostDutiful (isConstructed s.gen) u f (.issue c :: s.host) = true) :
    ∃ t, runCommand c s = .next t ∧ HostDutiful t := by
  obtain ⟨i, hdec, hi, hrest⟩ | ⟨hdec, hk, hrest⟩ | ⟨hdec, hk, hrest⟩ := hostDutiful_issue_cases h <;>
    rw [runCommand_of_command hdec]
  · obtain ⟨g, hg, hexec⟩ := exec_construct_isConstructed (s := s) hi
    refine ⟨_, hexec, ?_⟩
    rw [HostDutiful, install_gen, hg]
    exact hrest
  · obtain ⟨d, hd⟩ := drawRaw_of_genOk hok hk
    refine ⟨_, exec_advanceU32_of_draw hd, ?_⟩
    rw [HostDutiful, respondU32_gen, setGen_gen, drawRaw_keeps_isConstructed hd]
    exact hrest
  · obtain ⟨d, hd⟩ := drawRaw_of_genOk hok hk
    refine ⟨_, exec_advanceF64_of_draw hd, ?_⟩
    rw [HostDutiful, respondF64_gen, setGen_gen, drawRaw_keeps_isConstructed hd]
    exact hrest

/-- A read of a port that has a value completes and changes nothing. -/
theorem readPort_of_isSome {port : Option (BitVec n)} (h : port.isSome = true) : readPort port s = .next s := by
  obtain ⟨v, rfl⟩ := Option.isSome_iff_exists.1 h
  exact readPort_some v

/-- The next event of a dutiful host completes, and the duty goes on. -/
theorem serveEvent_of_dutiful {e : HostEvent} (hok : genOk s.gen = true)
    (h : hostDutiful (isConstructed s.gen) s.respU32.isSome s.respF64.isSome (e :: s.host) = true) :
    ∃ t, serveEvent e s = .next t ∧ HostDutiful t := by
  cases e with
  | issue c => exact runCommand_of_dutiful hok h
  | overlap c d => cases h
  | readU32 | readF64 =>
    obtain ⟨hport, hrest⟩ := Bool.and_eq_true_iff.1 h
    exact ⟨s, readPort_of_isSome hport, hrest⟩
  | reset => exact ⟨hardwareReset s, rfl, h⟩

/-- A block whose host has no event left holds its state (R129, R148). -/
theorem step_of_no_event (hm : s.cfg.m ≠ 0) (hh : s.host = []) : step s = .next s := by
  simp only [step, serve, if_neg hm, hh]

/-- Settles O49: an idle step changes nothing, a dutiful event completes and leaves the duty, and every
step keeps the state invariant. -/
theorem dutifulHostNeverStops : Obligations.DutifulHostNeverStops := by
  intro s hinv hduty
  have ⟨hm, hok, _⟩ := hinv
  have hstep : ∃ t, step s = .next t ∧ HostDutiful t := by
    cases hh : s.host with
    | nil => exact ⟨s, step_of_no_event hm hh, hduty⟩
    | cons e rest =>
      rw [HostDutiful, hh] at hduty
      rw [step_serves hm hh]
      exact serveEvent_of_dutiful (s := withHost rest s) hok hduty
  obtain ⟨t, ht, hdt⟩ := hstep
  exact ⟨t, ht, stepKeepsInvariant s t hinv ht, hdt⟩

end Sys2Proof.Machine
end

section
/-! The Driver (60_exceptions.md R122, R130): what it has read when no error applies, the events it then
makes of it, and that these are dutiful for a variant in scope (R131). -/

namespace Sys2Proof.Machine

open Sys2Proof.Safety

variable {inv : Invocation} {v : Variant} {k u f : Bool}

/-- A seed that the Driver takes was read and fits the port (R130). -/
theorem seedOf_eq_some {x : Nat} (h : seedOf inv = some x) : inv.seed = some x ∧ x < 2 ^ 64 := by
  unfold seedOf at h
  split at h
  · next y hy =>
    split at h
    · next hlt => cases h; exact ⟨hy, hlt⟩
    · cases h
  · cases h

/-- Where an error applies the Driver leaves the block alone (R122). -/
theorem driverEvents_of_error (h : driverErrors inv ≠ []) : driverEvents inv = [] := by
  unfold driverEvents
  split
  · next herr _ _ _ => exact absurd herr h
  · rfl

/-- Where none applies, the name, the seed and the count have all been read. -/
theorem read_of_no_error (h : driverErrors inv = []) :
    ∃ v x n, variantNamed inv.name = some v ∧ seedOf inv = some x ∧ inv.count = some n := by
  simp only [driverErrors, List.append_eq_nil_iff, ite_eq_left_iff, reduceCtorEq, imp_false, not_not,
    Bool.and_eq_true, Option.isSome_iff_exists] at h
  obtain ⟨⟨⟨-, v, hv⟩, -⟩, ⟨x, hx⟩, n, hn⟩ := h
  exact ⟨v, x, n, hv, hx, hn⟩

/-- Then the Driver issues the CONSTRUCT and as many draws as it was asked for (R61, R130). -/
theorem driverEvents_of_read {x n : Nat} (herr : driverErrors inv = []) (hv : variantNamed inv.name = some v)
    (hx : seedOf inv = some x) (hn : inv.count = some n) :
    driverEvents inv = .issue (constructCommand v x) :: List.replicate n (.issue (encode .advanceF64)) := by
  simp only [driverEvents, herr, hv, hx, hn, expand, List.map_cons, List.map_replicate]

/-- Normalized draws are dutiful on a constructed block, however many. -/
theorem hostDutiful_draws (n : Nat) :
    hostDutiful true u f (List.replicate n (.issue (encode .advanceF64))) = true := by
  induction n generalizing u f with
  | zero => rfl
  | succ n ih => rw [List.replicate_succ, hostDutiful_advanceF64 (decode_encode _), ih, Bool.and_self]

/-- The command of a construct line of a variant in scope is a CONSTRUCT in scope (R60). -/
theorem decode_constructCommand_in_scope (hv : v ≠ .mt19937) (x : Nat) :
    ∃ i, decode (constructCommand v x) = .command i ∧ constructs i = true := by
  refine ⟨_, decode_constructCommand v x, ?_⟩
  cases v with
  | lcg | randu | xorshift32 => rfl
  | mt19937 => exact absurd rfl hv

/-- The pseudo-instruction `run` of a variant in scope is dutiful from any state of the block (R131). -/
theorem hostDutiful_run (hv : v ≠ .mt19937) (x n : Nat) :
    hostDutiful k u f (.issue (constructCommand v x) :: List.replicate n (.issue (encode .advanceF64))) = true := by
  obtain ⟨i, hdec, hi⟩ := decode_constructCommand_in_scope hv x
  rw [hostDutiful_construct hdec hi, hostDutiful_draws]

/-- Settles O54: either an error applies and there are no events, or the events are those of `run` for
what was read. -/
theorem driverIsDutiful : Obligations.DriverIsDutiful := by
  refine fun inv => ⟨driverEvents_of_error, fun herr => ?_, fun hmt => ?_⟩
  · obtain ⟨v, x, n, hv, hx, hn⟩ := read_of_no_error herr
    obtain ⟨hseed, hlt⟩ := seedOf_eq_some hx
    exact ⟨v, x, n, hv, hseed, hlt, hn, driverEvents_of_read herr hv hx hn⟩
  · by_cases herr : driverErrors inv = []
    · obtain ⟨v, x, n, hv, hx, hn⟩ := read_of_no_error herr
      rw [driverEvents_of_read herr hv hx hn]
      exact hostDutiful_run (fun h => hmt (h ▸ hv)) x n
    · rw [driverEvents_of_error herr]
      rfl

end Sys2Proof.Machine
end

section
/-! The idle block (R129), a configuration without a modulus (R123), and the way out of a fault (R125). -/

namespace Sys2Proof.Machine

/-- Settles O12: with no event to serve, the step answers the state it found. -/
theorem idleBlockHoldsState : Obligations.IdleBlockHoldsState :=
  fun _ => step_of_no_event

/-- An LCG with modulus 0 has no remainder to step to. -/
theorem drawRaw_lcg_zero (a c st : U64) : drawRaw (.lcg a c 0 st) = .refused .badConfig := by
  rw [drawRaw, if_pos rfl]

/-- Settles O14: the step looks at the configuration first, and a draw stops as the step of the
recurrence does. -/
theorem badConfigRefused : Obligations.BadConfigRefused := by
  refine ⟨fun _ => step_of_modulus_zero, fun s a c st hgen => ?_⟩
  have hraw : drawRaw s.gen = .refused .badConfig := hgen ▸ drawRaw_lcg_zero a c st
  exact ⟨drawThen_refused_iff.2 hraw, drawThen_refused_iff.2 hraw⟩

/-- Settles O18: a reset after the faulting command leads out of the fault, and nothing else does. -/
theorem resetLeavesFault : Obligations.ResetLeavesFault := by
  refine fun s f _ => ⟨fun e rest hh => leaveFault_of_reset hh, fun t ht => ?_⟩
  obtain ⟨e, rest, hh, rfl⟩ := leaveFault_some ht
  exact ⟨hardwareReset_gen _, congrArg (·[1]?) hh⟩

end Sys2Proof.Machine
end

section
/-! Reset as an event and the hazards of the seed (70_reset_and_hazards.md): RANDU's absorbing 0 (R145), and
the seeds that one draw brings to one state (R146). -/

namespace Sys2Proof.Machine

open Sys2Proof.Safety

variable {s t : State} {i : Instr} {g g' : Generator} {d : Draw} {st : U32} {x y : U64}

/-- Settles O11: the step serves the reset on the block that waits for the rest of the events, and a reset
leaves of the state only the configuration and these. -/
theorem hardwareResetStep : Obligations.HardwareResetStep := fun _ _ hm hh => step_serves hm hh

/-- The normalized draw of a RANDU for the raw value 0 is `+0.0`. -/
theorem normF64_randuDivisor_zero : normF64 0 randuDivisor = 0 :=
  (normF64_randuDivisor 0).trans (roundRatio_zero (by decide))

/-- A RANDU whose low 31 bits are 0 answers 0 or `+0.0` and steps to 0 (R145). -/
theorem exec_advanceU32_randu_of_dvd (hgen : s.gen = .randu st) (h : 2 ^ 31 ∣ st.toNat) :
    exec .advanceU32 s = .next (respondU32 0 (setGen (.randu 0) s)) := by
  rw [exec_advanceU32_randu hgen, randuNext_of_dvd h]

theorem exec_advanceF64_randu_of_dvd (hgen : s.gen = .randu st) (h : 2 ^ 31 ∣ st.toNat) :
    exec .advanceF64 s = .next (respondF64 0 (setGen (.randu 0) s)) := by
  have hd : drawRaw s.gen = .next ⟨0, .randu 0, randuDivisor⟩ := by rw [hgen, drawRaw, randuNext_of_dvd h]
  rw [exec_advanceF64_of_draw hd, normF64_randuDivisor_zero]

/-- Writing back the registers that are there changes nothing. -/
theorem setGen_of_gen_eq (hgen : s.gen = g) : setGen g s = s := by
  rw [← hgen]
  rfl

/-- Truncation does not lose the low 31 bits. -/
theorem two_pow_31_dvd_seedNarrowed (h : x.toNat % 2 ^ 31 = 0) : 2 ^ 31 ∣ (seedNarrowed x).toNat := by
  rw [seedNarrowed_toNat]
  omega

/-- The step keeps every power of two that divides the state: from `2^31` up because it steps to 0. -/
theorem two_pow_dvd_randuNext {z : Nat} (h : 2 ^ z ∣ st.toNat) : 2 ^ z ∣ (randuNext st).toNat := by
  rcases Nat.le_total z 31 with hz | hz
  · exact (two_pow_dvd_randuNext_iff st hz).2 h
  · have h31 : 2 ^ 31 ∣ st.toNat := (Nat.pow_dvd_pow 2 hz).trans h
    rw [randuNext_of_dvd h31]
    exact Nat.dvd_zero _

/-- Either draw of a RANDU steps its state once. -/
theorem exec_draw_randu (hgen : s.gen = .randu st) (hi : draws i = true) (h : exec i s = .next t) :
    t.gen = .randu (randuNext st) := by
  obtain ⟨d, hd, ht⟩ := exec_draw_gen hi h
  rw [hgen] at hd
  cases hd
  exact ht

/-- Settles O33: a state whose low 31 bits are 0 steps to 0, which steps to itself, and the step keeps
the powers of two that divide the state. -/
theorem randuZeroHazard : Obligations.RanduZeroHazard := by
  refine ⟨fun s t x hx h => ?_, fun s hgen => ?_, fun s t st z i hgen hz hi h => ?_⟩
  · cases h
    have hdvd := two_pow_31_dvd_seedNarrowed hx
    exact ⟨exec_advanceU32_randu_of_dvd rfl hdvd, exec_advanceF64_randu_of_dvd rfl hdvd⟩
  · have hdvd : 2 ^ 31 ∣ (0 : U32).toNat := by decide
    rw [exec_advanceU32_randu_of_dvd hgen hdvd, exec_advanceF64_randu_of_dvd hgen hdvd, setGen_of_gen_eq hgen]
    exact ⟨rfl, rfl⟩
  · exact ⟨randuNext st, exec_draw_randu hgen hi h, two_pow_dvd_randuNext hz⟩

/-- Two instances that one step of the recurrence brings to one draw have the same whole state after
either command that draws. -/
theorem exec_draw_install_eq (s : State) (hi : draws i = true) (hg : drawRaw g = .next d)
    (hg' : drawRaw g' = .next d) : ∃ t, exec i (install g s) = .next t ∧ exec i (install g' s) = .next t := by
  cases i with
  | constructLcg z | constructRandu z | constructXs32 z | constructMt z => cases hi
  | advanceU32 => exact ⟨_, exec_advanceU32_of_draw hg, exec_advanceU32_of_draw hg'⟩
  | advanceF64 => exact ⟨_, exec_advanceF64_of_draw hg, exec_advanceF64_of_draw hg'⟩

/-- Seeds that agree modulo `2^32` narrow to one word. -/
theorem seedNarrowed_congr (h : x.toNat % 2 ^ 32 = y.toNat % 2 ^ 32) : seedNarrowed x = seedNarrowed y := by
  refine BitVec.eq_of_toNat_eq ?_
  rw [seedNarrowed_toNat, seedNarrowed_toNat, h]

/-- The default LCG sees the low half of its state only (R82). -/
theorem lcgNext_default_congr (h : x.toNat % 2 ^ 32 = y.toNat % 2 ^ 32) :
    lcgNext 1664525#64 1013904223#64 4294967296#64 x = lcgNext 1664525#64 1013904223#64 4294967296#64 y := by
  have hlow : x.setWidth 32 = y.setWidth 32 := seedNarrowed_congr h
  rw [lcgNext_default, lcgNext_default, lcgDefaultNext32, lcgDefaultNext32, hlow]

/-- RANDU sees the low 31 bits of its seed only. -/
theorem randuNext_seedNarrowed_congr (h : x.toNat % 2 ^ 31 = y.toNat % 2 ^ 31) :
    randuNext (seedNarrowed x) = randuNext (seedNarrowed y) := by
  refine randuNext_congr ?_
  rw [seedNarrowed_toNat, seedNarrowed_toNat]
  omega

/-- The remap makes the narrowed seeds 0 and 1 one instance (R73). -/
theorem seedNonZero_congr
    (h : x.toNat % 2 ^ 32 = y.toNat % 2 ^ 32 ∨ (x.toNat % 2 ^ 32 = 0 ∧ y.toNat % 2 ^ 32 = 1)) :
    seedNonZero x = seedNonZero y := by
  rcases h with heq | ⟨hx, hy⟩
  · rw [seedNonZero, seedNonZero, seedNarrowed_congr heq]
  · rw [seedNonZero_of_mod_eq_zero hx]
    refine BitVec.eq_of_toNat_eq ?_
    rw [seedNonZero_toNat_of_mod_ne_zero (by omega), hy]
    rfl

/-- Settles O34: Xorshift32 stores one word for both seeds, RANDU and the default LCG step two stored words
to one state; what is left of the old state is the same on both sides. -/
theorem seedAliasing : Obligations.SeedAliasing := by
  intro s t₁ t₂ x y i hi
  refine ⟨fun hcfg hxy h₁ h₂ => ?_, fun hxy h₁ h₂ => ?_, fun hxy h₁ h₂ => ?_⟩ <;> cases h₁ <;> cases h₂
  · have hm : s.cfg.m ≠ 0 := by rw [hcfg]; decide
    have hnext : lcgNext s.cfg.a s.cfg.c s.cfg.m x = lcgNext s.cfg.a s.cfg.c s.cfg.m y := by
      rw [hcfg]
      exact lcgNext_default_congr hxy
    rw [seedWhole, seedWhole]
    refine exec_draw_install_eq s hi ?_ (drawRaw_lcg hm)
    rw [drawRaw_lcg hm, hnext]
  · refine exec_draw_install_eq s hi (d := ⟨_, .randu (randuNext (seedNarrowed y)), _⟩) ?_ rfl
    rw [drawRaw, randuNext_seedNarrowed_congr hxy]
  · rw [seedNonZero_congr hxy]
    exact exec_draw_install_eq s hi rfl rfl

end Sys2Proof.Machine
end
